-- ==== Sys2Proof/Word.lean ====
section
/-! DEFINITION. The word types of BU-TMSA: what the spec treats as bits. -/

namespace Sys2Proof

/-- A command word (30_encoding.md R90). -/
abbrev Word := BitVec 64

/-- One byte of a serialised word (20_memory.md R62). -/
abbrev Byte := BitVec 8

/-- A binary32 value, held as its 32-bit pattern (00_scope.md R8). -/
abbrev F32 := BitVec 32

/-- A slot entry, `{x[9:0], colour[5:0]}` (10_state.md R47). -/
abbrev Entry := BitVec 16

/-- A colour, `{blue[1:0], green[1:0], red[1:0]}` (10_state.md R48). -/
abbrev Colour := BitVec 6

/-- The elements of one memory space, as (index, element) pairs; an index that is not listed holds
what the space reads as when nothing has been written there (20_memory.md R60, R61). -/
abbrev Cells (n : Nat) := List (Nat × BitVec n)

end Sys2Proof
end

