-- ==== Sys2Proof/Syntax.lean ====
section
/-! DEFINITION. The commands of BU-TMSA: one constructor for each row of spec/opcode_table.json
(30_encoding.md R93), and the names of lanes and ports that commands and agents use. -/

namespace Sys2Proof

/-- The two mapper lanes (60_exceptions.md R226: "Identifiers: 0 and 1, fixed, equal to the half
each computes"). -/
inductive LaneId where
  | lane0
  | lane1
  deriving DecidableEq, Repr, Inhabited

/-- The two command ports (30_encoding.md R90): `h` the host's, `s` the sink's. -/
inductive PortId where
  | h
  | s
  deriving DecidableEq, Repr, Inhabited

/-- A command with its operands, each of the width its format gives it (30_encoding.md R91, R92).
The register number of CFGW has the four bits of its field; that it is at most 11 is a check of
WellFormed.lean (R96). -/
inductive Instr where
  /-- NOP, op 0x00, format Z (40_config.md R121). -/
  | nop
  /-- CFGW reg, value, op 0x01, format R (40_config.md R122). -/
  | cfgw (reg : BitVec 4) (value : BitVec 32)
  /-- LUTW idx, value, op 0x02, format L (40_config.md R123). -/
  | lutw (idx : BitVec 17) (value : F32)
  /-- CAPW row, cap, op 0x03, format C (40_config.md R124). -/
  | capw (row : BitVec 10) (cap : BitVec 11)
  /-- LOCK, op 0x04, format Z (40_config.md R125). -/
  | lock
  /-- STAT, op 0x05, format Z (40_config.md R126). -/
  | stat
  /-- CLEAR, op 0x10, format Z (42_slots.md R173). -/
  | clear
  /-- PLOT row, x, colour, op 0x11, format P (42_slots.md R172). -/
  | plot (row : BitVec 10) (x : BitVec 10) (colour : Colour)
  /-- GEN h, time, op 0x12, format G (41_mapper.md R141). -/
  | gen (h : LaneId) (time : F32)
  /-- JOIN, op 0x13, format Z (43_sync_scanout.md R190). -/
  | join
  /-- SWAP, op 0x14, format Z (43_sync_scanout.md R191). -/
  | swap
  /-- SLINE row, op 0x30, format S, port S (43_sync_scanout.md R193). -/
  | sline (row : BitVec 10)
  /-- VSYNC, op 0x31, format Z, port S (43_sync_scanout.md R192). -/
  | vsync
  deriving DecidableEq, Repr, Inhabited

end Sys2Proof
end

