-- ==== Sys2Proof/WellFormed.lean ====
section
/-! DEFINITION. The one check on a command that its operand widths do not make already
(30_encoding.md R96): a CFGW names one of the twelve registers. -/

namespace Sys2Proof

/-- The highest configuration register number (10_state.md R21: "numbered 0 to 11"). -/
def lastCfgReg : Nat := 11

/-- A command that some word stands for (30_encoding.md R93, R96). -/
def Instr.wellFormed : Instr → Bool
  | .nop => true
  | .cfgw reg _ => decide (reg.toNat ≤ lastCfgReg)
  | .lutw _ _ => true
  | .capw _ _ => true
  | .lock => true
  | .stat => true
  | .clear => true
  | .plot _ _ _ => true
  | .gen _ _ => true
  | .join => true
  | .swap => true
  | .sline _ => true
  | .vsync => true

end Sys2Proof
end

