-- ==== Sys2Proof/Decode.lean ====
section
/-! DEFINITION. Decoding a command word (30_encoding.md R90 to R98), the encoder written from the
same tables, and the serialisation of words (20_memory.md R62). Decoding is total: a word that
stands for no command is rejected by a name, and every rejection is the error ILL (R95, R96). -/

namespace Sys2Proof

/-! ### Fields of a word (30_encoding.md R90) -/

/-- `op`, bits 63:56. -/
def opOf (w : Word) : BitVec 8 := w.extractLsb' 56 8

/-- `A`, bits 55:32. -/
def argA (w : Word) : BitVec 24 := w.extractLsb' 32 24

/-- `D`, bits 31:0. -/
def argD (w : Word) : BitVec 32 := w.extractLsb' 0 32

/-- The lane a one-bit field names (30_encoding.md R91, format G). -/
def laneOfBit (b : Bool) : LaneId := if b then .lane1 else .lane0

/-- The one-bit field that names a lane. -/
def LaneId.bit : LaneId → Bool
  | .lane0 => false
  | .lane1 => true

/-- Why a word stands for no command; each is the error ILL (60_exceptions.md R212). -/
inductive DecodeError where
  /-- The opcode is not one of R93. -/
  | reservedOpcode
  /-- The opcode is legal, on the other port (R94). -/
  | wrongPort
  /-- A bit that the format reserves is 1 (R96). -/
  | reservedBits
  /-- A CFGW names register 12 to 15 (R96). -/
  | reservedRegister
  /-- Fewer than eight bytes were given (only for a serialised word, 20_memory.md R62). -/
  | truncated
  deriving DecidableEq, Repr

/-- One row of the opcode map (30_encoding.md R93): the opcode, the port, the match and mask that
force the row's reserved bits, and the command its word stands for, read with the fields of R91. -/
structure Row where
  op      : BitVec 8
  port    : PortId
  pattern : Word
  mask    : Word
  read    : Word → Instr

/-- The thirteen rows of 30_encoding.md R93, with the operand fields of R91. -/
def opcodeMap : List Row := [
  ⟨0x00, .h, 0x0000000000000000, 0xFFFFFFFFFFFFFFFF, fun _ => .nop⟩,
  ⟨0x01, .h, 0x0100000000000000, 0xFFFFFFF000000000,
    fun w => .cfgw ((argA w).extractLsb' 0 4) (argD w)⟩,
  ⟨0x02, .h, 0x0200000000000000, 0xFFFE000000000000,
    fun w => .lutw ((argA w).extractLsb' 0 17) (argD w)⟩,
  ⟨0x03, .h, 0x0300000000000000, 0xFFFFFC00FFFFF800,
    fun w => .capw ((argA w).extractLsb' 0 10) ((argD w).extractLsb' 0 11)⟩,
  ⟨0x04, .h, 0x0400000000000000, 0xFFFFFFFFFFFFFFFF, fun _ => .lock⟩,
  ⟨0x05, .h, 0x0500000000000000, 0xFFFFFFFFFFFFFFFF, fun _ => .stat⟩,
  ⟨0x10, .h, 0x1000000000000000, 0xFFFFFFFFFFFFFFFF, fun _ => .clear⟩,
  ⟨0x11, .h, 0x1100000000000000, 0xFFFFFFFFFC000000,
    fun w => .plot ((argD w).extractLsb' 16 10) ((argD w).extractLsb' 6 10)
      ((argD w).extractLsb' 0 6)⟩,
  ⟨0x12, .h, 0x1200000000000000, 0xFFFFFFFE00000000,
    fun w => .gen (laneOfBit ((argA w).getLsbD 0)) (argD w)⟩,
  ⟨0x13, .h, 0x1300000000000000, 0xFFFFFFFFFFFFFFFF, fun _ => .join⟩,
  ⟨0x14, .h, 0x1400000000000000, 0xFFFFFFFFFFFFFFFF, fun _ => .swap⟩,
  ⟨0x30, .s, 0x3000000000000000, 0xFFFFFC00FFFFFFFF,
    fun w => .sline ((argA w).extractLsb' 0 10)⟩,
  ⟨0x31, .s, 0x3100000000000000, 0xFFFFFFFFFFFFFFFF, fun _ => .vsync⟩]

/-- The row of an opcode, if it has one. -/
def rowOf (op : BitVec 8) : Option Row := opcodeMap.find? fun r => r.op == op

/-- Decode test 2 (30_encoding.md R97): reserved bits zero and `reg <= 11`. -/
def Row.decode (r : Row) (w : Word) : Except DecodeError Instr :=
  if w &&& r.mask = r.pattern then
    if (r.read w).wellFormed then .ok (r.read w) else .error .reservedRegister
  else .error .reservedBits

/-- The command a word stands for on port `p`: decode tests 1 and 2 of 30_encoding.md R97, in that
order. -/
def decodeOn (p : PortId) (w : Word) : Except DecodeError Instr :=
  match rowOf (opOf w) with
  | none => .error .reservedOpcode
  | some r => if r.port = p then r.decode w else .error .wrongPort

/-- The command a word stands for on the port its opcode belongs to. -/
def decodeWord (w : Word) : Except DecodeError Instr :=
  match rowOf (opOf w) with
  | none => .error .reservedOpcode
  | some r => r.decode w

/-! ### The encoder (30_encoding.md R90, R91, R93) -/

/-- The port a command is legal on (30_encoding.md R93, R94). -/
def Instr.port : Instr → PortId
  | .nop => .h
  | .cfgw _ _ => .h
  | .lutw _ _ => .h
  | .capw _ _ => .h
  | .lock => .h
  | .stat => .h
  | .clear => .h
  | .plot _ _ _ => .h
  | .gen _ _ => .h
  | .join => .h
  | .swap => .h
  | .sline _ => .s
  | .vsync => .s

/-- The opcode of a command (30_encoding.md R93). -/
def Instr.op : Instr → BitVec 8
  | .nop => 0x00
  | .cfgw _ _ => 0x01
  | .lutw _ _ => 0x02
  | .capw _ _ => 0x03
  | .lock => 0x04
  | .stat => 0x05
  | .clear => 0x10
  | .plot _ _ _ => 0x11
  | .gen _ _ => 0x12
  | .join => 0x13
  | .swap => 0x14
  | .sline _ => 0x30
  | .vsync => 0x31

/-- The `A` argument of a command, reserved bits 0 (30_encoding.md R91). -/
def Instr.encA : Instr → BitVec 24
  | .nop => 0
  | .cfgw reg _ => reg.setWidth 24
  | .lutw idx _ => idx.setWidth 24
  | .capw row _ => row.setWidth 24
  | .lock => 0
  | .stat => 0
  | .clear => 0
  | .plot _ _ _ => 0
  | .gen h _ => (BitVec.ofBool h.bit).setWidth 24
  | .join => 0
  | .swap => 0
  | .sline row => row.setWidth 24
  | .vsync => 0

/-- The `D` data of a command, reserved bits 0 (30_encoding.md R91). -/
def Instr.encD : Instr → BitVec 32
  | .nop => 0
  | .cfgw _ value => value
  | .lutw _ value => value
  | .capw _ cap => cap.setWidth 32
  | .lock => 0
  | .stat => 0
  | .clear => 0
  | .plot row x colour =>
    (row.setWidth 32 <<< 16) ||| ((x.setWidth 32 <<< 6) ||| colour.setWidth 32)
  | .gen _ time => time
  | .join => 0
  | .swap => 0
  | .sline _ => 0
  | .vsync => 0

/-- The word of a command: `{op, A, D}` (30_encoding.md R90). -/
def encode (i : Instr) : Word :=
  (i.op.setWidth 64 <<< 56) ||| ((i.encA.setWidth 64 <<< 32) ||| i.encD.setWidth 64)

/-! ### Serialisation (20_memory.md R62): the least significant byte first -/

/-- The `n` low bytes of a word, the least significant first. -/
def toBytes {m : Nat} : (n : Nat) → BitVec m → List Byte
  | 0, _ => []
  | n + 1, w => w.extractLsb' 0 8 :: toBytes n (w >>> 8)

/-- The number whose bytes these are, the least significant first. -/
def natOfBytes : List Byte → Nat
  | [] => 0
  | b :: bs => b.toNat + 256 * natOfBytes bs

/-- Decodes the first eight bytes as one command word and leaves the rest; every command is one
64-bit word (30_encoding.md R98). -/
def decodeBytes (bytes : List Byte) : Except DecodeError (Instr × List Byte) :=
  if bytes.length < 8 then .error .truncated
  else match decodeWord (BitVec.ofNat 64 (natOfBytes (bytes.take 8))) with
    | .ok i => .ok (i, bytes.drop 8)
    | .error e => .error e

/-- A table row's word as the 64-bit command word: the bits at and above `nbits` are 0. -/
def tableWord (nbits w : Nat) : Word := BitVec.ofNat 64 (w % 2 ^ nbits)

/-- The instruction the decoder reads from the word `w` of `nbits` bits, laid out in memory with its
least significant byte first (20_memory.md R62). -/
def decodeTableWord (nbits w : Nat) : Option Instr :=
  match decodeBytes (toBytes 8 (tableWord nbits w)) with
  | .ok (i, _) => some i
  | .error _ => none

end Sys2Proof
end

