-- ==== Sys2Proof/Config.lean ====
section
/-! DEFINITION. What an implementation fixes (the three OPEN limits of 92_eei_decisions.md D35),
the constants of 00_scope.md R5, and the free values: what the spec leaves unspecified. A free value
is an opaque constant, so no proof can see what it is. -/

namespace Sys2Proof

/-- Whose turn a step is. 20_memory.md R69: an execution is one total order of host commands, sink
commands and lane steps; 70_reset_and_hazards.md R240: the reset pin is an input, which can be
applied between any two of them. -/
inductive Turn where
  | host
  | sink
  | lane (h : LaneId)
  | resetPin
  deriving DecidableEq, Repr, Inhabited

/-- The turn of the agent behind a port. -/
def PortId.turn : PortId → Turn
  | .h => .host
  | .s => .sink

/-- The limits an implementation may build smaller (00_scope.md R5; 92_eei_decisions.md D35;
93_implementation_defined.md U10). The types carry the upper bounds ROWS_MAX <= 1024,
CAP_MAX <= 1024, LOG2N_MAX <= 16. Log 8. -/
structure Build where
  rowsMax  : Fin 1025
  capMax   : Fin 1025
  log2nMax : Fin 17
  deriving DecidableEq, Repr

/-- The defaults 1024, 1024, 16 (92_eei_decisions.md D35). -/
def Build.default : Build := { rowsMax := 1024, capMax := 1024, log2nMax := 16 }

/-- LUT_DEPTH = 5 * 2^LOG2N_MAX / 4 (00_scope.md R5). -/
def Build.lutDepth (b : Build) : Nat := 5 * 2 ^ (b.log2nMax : Nat) / 4

/-- CURVE_STEP: "only every 4th index is actually evaluated" (00_scope.md R5). -/
def Config.curveStep : Nat := 4

/-- CURVE_COUNT_MAX (00_scope.md R5). -/
def Config.curveCountMax : Nat := 65528

/-- ITER_MAX (00_scope.md R5). -/
def Config.iterMax : Nat := 512

/-- FREE VALUE: what LUT element `k` holds after the `epoch`-th reset until it is written
(10_state.md R43; 93_implementation_defined.md U1, any value drawn once per element at reset).
DESIGN CHOICE, log 2; safe. -/
opaque Config.lutAtReset : (epoch k : Nat) → F32

/-- FREE VALUE: what the slot element at `key` of bank number `bank` holds after the `epoch`-th reset
until it is written (10_state.md R46; 93_implementation_defined.md U5). DESIGN CHOICE, log 3; safe. -/
opaque Config.slotAtReset : (epoch bank key : Nat) → Entry

/-- FREE VALUE: whose turn the `n`-th step is once the turns placed from outside are used up
(20_memory.md R69, R72; 93_implementation_defined.md U7: "never a fixed order"). DESIGN CHOICE,
log 4; safe. -/
opaque Config.schedule : (n : Nat) → Turn

end Sys2Proof
end

