-- ==== Sys2Proof/Machine/State.lean ====
section
/-! DEFINITION. The state of BU-TMSA (10_state.md R20) as plain data, with the inputs of the step
relation beside it (R54), the reasons a step can stop, and the state after reset (R53). -/

namespace Sys2Proof.Machine

/-- The four memory spaces (20_memory.md R60). -/
inductive SpaceId where
  | lut
  | cap
  | cnt
  | slot
  deriving DecidableEq, Repr

/-- The two slot banks (10_state.md R50: "Bank A is bank 0 and bank B is bank 1"). -/
inductive BankId where
  | bank0
  | bank1
  deriving DecidableEq, Repr

/-- The two modes (60_exceptions.md R222). -/
inductive Mode where
  | cfg
  | run
  deriving DecidableEq, Repr

/-- The four error causes (60_exceptions.md R211). -/
inductive Cause where
  | ill
  | state
  | range
  | num
  deriving DecidableEq, Repr

/-- Why a step stops with a fault. -/
inductive Fault where
  /-- Raised by a memory primitive of Machine/Ops.lean that is given an element index outside its
  space. 00_scope.md R9: "An index outside the space never reaches a memory primitive", so no state
  that meets `Inv` (Safety.lean) reaches it. Safe: the model stops where the block has no such
  access. DESIGN CHOICE, log 9. -/
  | outsideSpace (space : SpaceId) (index : Nat)
  deriving DecidableEq, Repr

/-- Why a step is refused. -/
inductive Refusal where
  /-- Raised by an arm of `exec` whose instruction has no meaning yet; no arm does. Safe. -/
  | notModelled (mnemonic : String)
  deriving DecidableEq, Repr

/-- The twelve configuration registers, in number order (10_state.md R21). -/
structure CfgRegs where
  log2n      : BitVec 5
  pixelSize  : BitVec 11
  curveCount : BitVec 16
  iterCount  : BitVec 10
  redShift   : BitVec 4
  idxScale   : F32
  da1        : F32
  da2        : F32
  a1Start0   : F32
  a1Start1   : F32
  a2Start0   : F32
  a2Start1   : F32
  deriving DecidableEq, Repr

/-- The six working registers of a lane (10_state.md R37 to R41). -/
structure LaneRegs where
  x  : F32
  y  : F32
  a1 : F32
  a2 : F32
  i  : BitVec 16
  j  : BitVec 10
  deriving DecidableEq, Repr

/-- One slot bank: a count per row, and the slot elements, element `k` of row `r` at index
`slotKey r k` of Machine/Mem.lean (10_state.md R45, R46). -/
structure Bank where
  cnt  : Cells 11
  slot : Cells 16
  deriving DecidableEq, Repr

/-- The four memories (20_memory.md R60); CNT and SLOT have one part in each bank. -/
structure Memory where
  lut   : Cells 32
  cap   : Cells 11
  bank0 : Bank
  bank1 : Bank
  deriving DecidableEq, Repr

/-- A port: the command words its agent issues, in order, and the command pointer `cp`
(10_state.md R54(a)). Log 5. -/
structure Port where
  words : List Word
  cp    : Nat
  deriving DecidableEq, Repr

/-- The state: what 10_state.md R20 lists (`cfg`, `status`, `lane0`, `lane1`, `mem`, `respH`,
`respS`), the ports' command lists (R54), and the model's own fields: `build`, the implementation's
limits (log 8); `turns` and `ticks`, the order of the agents' steps (log 4); `epoch`, how often the
reset pin has been applied (log 2). -/
structure State where
  build  : Build
  cfg    : CfgRegs
  status : BitVec 32
  lane0  : LaneRegs
  lane1  : LaneRegs
  mem    : Memory
  respH  : List (BitVec 32)
  respS  : List (BitVec 16)
  portH  : Port
  portS  : Port
  turns  : List Turn
  ticks  : Nat
  epoch  : Nat
  deriving DecidableEq, Repr

/-- The configuration registers after reset (10_state.md R53). -/
def CfgRegs.reset : CfgRegs :=
  { log2n := 2, pixelSize := 1, curveCount := 0, iterCount := 0, redShift := 0, idxScale := 0,
    da1 := 0, da2 := 0, a1Start0 := 0, a1Start1 := 0, a2Start0 := 0, a2Start1 := 0 }

/-- The lane registers after reset: 10_state.md R42 gives them no defined value and no rule reads
them before GEN writes them; the model names zero. DESIGN CHOICE, log 1; unsafe. -/
def LaneRegs.reset : LaneRegs := { x := 0, y := 0, a1 := 0, a2 := 0, i := 0, j := 0 }

/-- An empty bank: every count 0, no slot element written (10_state.md R53). -/
def Bank.empty : Bank := { cnt := [], slot := [] }

/-- The memories after reset (10_state.md R53): every capacity and count 0, LUT and SLOT
unspecified, which is what their unlisted elements read as (logs 2 and 3). -/
def Memory.reset : Memory := { lut := [], cap := [], bank0 := Bank.empty, bank1 := Bank.empty }

/-- A port with no command to present. -/
def Port.empty : Port := { words := [], cp := 0 }

/-- The machine after reset (10_state.md R53), of an implementation with the default limits
(92_eei_decisions.md D35); no command is presented and no turn is placed (logs 4 and 5). -/
def State.reset : State :=
  { build := Build.default, cfg := CfgRegs.reset, status := 0,
    lane0 := LaneRegs.reset, lane1 := LaneRegs.reset, mem := Memory.reset,
    respH := [], respS := [], portH := Port.empty, portS := Port.empty,
    turns := [], ticks := 0, epoch := 0 }

end Sys2Proof.Machine
end

