-- ==== Sys2Proof/Machine/Mem.lean ====
section
/-! DEFINITION. The element lists that hold the four memories (20_memory.md R60, R61), and their
canonical form: indices strictly rising, and no entry equal to what an unlisted index reads as. LUT
and SLOT have no fixed value for an unlisted element (logs 2 and 3), so every write to them is
listed; CAP and CNT read 0 there (10_state.md R44, R45), so a 0 is never listed. -/

namespace Sys2Proof.Machine

/-- The element listed at index `k`. -/
def cellsGet? {n : Nat} : Cells n → Nat → Option (BitVec n)
  | [], _ => none
  | (a, v) :: rest, k => if a = k then some v else cellsGet? rest k

/-- Lists `v` at index `k`, in place of what was listed there. -/
def cellsPut {n : Nat} : Cells n → Nat → BitVec n → Cells n
  | [], k, v => [(k, v)]
  | (a, w) :: rest, k, v =>
    if k < a then (k, v) :: (a, w) :: rest
    else if k = a then (k, v) :: rest
    else (a, w) :: cellsPut rest k v

/-- Takes index `k` off the list. -/
def cellsDrop {n : Nat} (m : Cells n) (k : Nat) : Cells n := m.filter fun c => decide (c.1 ≠ k)

/-- Takes every index below `k` off the list. -/
def cellsDropBelow {n : Nat} (m : Cells n) (k : Nat) : Cells n := m.filter fun c => decide (k ≤ c.1)

/-- The element at index `k` of a space whose unlisted elements are 0. -/
def cellsGetZ {n : Nat} (m : Cells n) (k : Nat) : BitVec n := (cellsGet? m k).getD 0

/-- Writes `v` at index `k` of a space whose unlisted elements are 0. -/
def cellsPutZ {n : Nat} (m : Cells n) (k : Nat) (v : BitVec n) : Cells n :=
  if v = 0 then cellsDrop m k else cellsPut m k v

/-- The indices are strictly rising. -/
abbrev cellsRising {n : Nat} (m : Cells n) : Prop := m.Pairwise fun a b => a.1 < b.1

/-- No 0 is listed. -/
abbrev cellsNonzero {n : Nat} (m : Cells n) : Prop := ∀ c ∈ m, c.2 ≠ 0

/-- The canonical form of a bank. -/
abbrev Bank.wf (b : Bank) : Prop :=
  cellsRising b.cnt ∧ cellsNonzero b.cnt ∧ cellsRising b.slot

/-- The canonical form of the memories. -/
abbrev Memory.wf (m : Memory) : Prop :=
  cellsRising m.lut ∧ cellsRising m.cap ∧ cellsNonzero m.cap ∧ m.bank0.wf ∧ m.bank1.wf

/-- The index of slot element `k` of row `r` inside a bank; rows and elements have at most 1024
places each (00_scope.md R5). -/
def slotKey (row k : Nat) : Nat := row * 1024 + k

/-- The bank of a number (10_state.md R50). -/
def Memory.bank (m : Memory) : BankId → Bank
  | .bank0 => m.bank0
  | .bank1 => m.bank1

/-- Replaces the bank of a number. -/
def Memory.setBank (m : Memory) (b : BankId) (k : Bank) : Memory :=
  match b with
  | .bank0 => { m with bank0 := k }
  | .bank1 => { m with bank1 := k }

/-- The number of a bank (10_state.md R50). -/
def BankId.number : BankId → Nat
  | .bank0 => 0
  | .bank1 => 1

/-- The other bank (10_state.md R33). -/
def BankId.other : BankId → BankId
  | .bank0 => .bank1
  | .bank1 => .bank0

end Sys2Proof.Machine
end

