-- ==== Sys2Proof/Machine/Flags.lean ====
section
/-! DEFINITION. The status register (10_state.md R31 to R36), the error causes (60_exceptions.md
R211) and the level outputs (10_state.md R51). -/

namespace Sys2Proof.Machine

/-- `w` with bit `n` set to `b`. -/
def putBit (w : BitVec 32) (n : Nat) (b : Bool) : BitVec 32 :=
  if b then w ||| BitVec.twoPow 32 n else w &&& ~~~ BitVec.twoPow 32 n

/-- STATUS.MODE, bit 0 (10_state.md R31). -/
def modeBit : Nat := 0

/-- STATUS.WB, bit 1 (10_state.md R31). -/
def wbBit : Nat := 1

/-- STATUS.VSP, bit 2 (10_state.md R31). -/
def vspBit : Nat := 2

/-- STATUS.BUSY0 and BUSY1, bits 4 and 5 (10_state.md R31). -/
def busyBit : LaneId → Nat
  | .lane0 => 4
  | .lane1 => 5

/-- The code of a cause (60_exceptions.md R211). -/
def Cause.code : Cause → Nat
  | .ill => 0
  | .state => 1
  | .range => 2
  | .num => 3

/-- The STATUS bit of a cause: "The code of a cause is its bit position in STATUS minus 8"
(60_exceptions.md R211). -/
def Cause.bit (c : Cause) : Nat := 8 + c.code

/-- The bits of STATUS that 10_state.md R31 names; the others are reserved and read 0. -/
def namedBits : BitVec 32 := 0x00000F37

/-- One bit of STATUS. -/
def State.flag (s : State) (n : Nat) : Bool := s.status.getLsbD n

/-- `s` with one bit of STATUS set to `b`. -/
def State.setFlag (s : State) (n : Nat) (b : Bool) : State :=
  { s with status := putBit s.status n b }

/-- The mode (10_state.md R32; 60_exceptions.md R222). -/
def State.mode (s : State) : Mode := if s.flag modeBit then .run else .cfg

/-- The write bank (10_state.md R33). -/
def State.writeBank (s : State) : BankId := if s.flag wbBit then .bank1 else .bank0

/-- The display bank (10_state.md R33). -/
def State.displayBank (s : State) : BankId := if s.flag wbBit then .bank0 else .bank1

/-- The vsync latch (10_state.md R34). -/
def State.vsp (s : State) : Bool := s.flag vspBit

/-- Lane `h` is running (10_state.md R35). -/
def State.busy (s : State) (h : LaneId) : Bool := s.flag (busyBit h)

/-- Either lane is running. -/
def State.anyBusy (s : State) : Bool := s.busy .lane0 || s.busy .lane1

/-- The sticky error bit of a cause (10_state.md R36). -/
def State.err (s : State) (c : Cause) : Bool := s.flag c.bit

/-- `raise E` "is exactly STATUS.ERR_E <- 1" (60_exceptions.md R217): the block's whole exception
entry. Nothing is saved, no mode changes, control goes nowhere, and there is no return from it
(R218). -/
def State.raise (s : State) (c : Cause) : State := s.setFlag c.bit true

/-- The wire `busy_o[h]` (10_state.md R51). -/
def State.busyOut (s : State) (h : LaneId) : Bool := s.busy h

/-- The wire `vsp_o` (10_state.md R51). -/
def State.vspOut (s : State) : Bool := s.vsp

/-- The wire `err_o` (10_state.md R51). -/
def State.errOut (s : State) : Bool :=
  s.err .ill || s.err .state || s.err .range || s.err .num

end Sys2Proof.Machine
end

