-- ==== Sys2Proof/Machine/Float.lean ====
section
/-! DEFINITION. The binary32 primitives of 00_scope.md R8: fadd, fmul, flt, fge, u2f, f2i, ftrunc_u.
A finite value is the integer `units` times 2^-149, so sums and products are exact integers, rounded
once. Log 12. -/

namespace Sys2Proof.Machine

/-- The canonical quiet NaN (00_scope.md R8). -/
def qnan : F32 := 0x7FC00000

/-- The pattern of plus infinity without its sign, which a rounded result saturates at. -/
def infPattern : Nat := 0x7F800000

/-- The number of units (of 2^-149) in 1. -/
def oneUnits : Nat := 2 ^ 149

/-- Bit 31: the value is negative, or -0. -/
def fneg (a : F32) : Bool := a.getLsbD 31

/-- Bits 30:23, the biased exponent. -/
def fexp (a : F32) : Nat := (a.extractLsb' 23 8).toNat

/-- Bits 22:0, the fraction. -/
def ffrac (a : F32) : Nat := (a.extractLsb' 0 23).toNat

/-- Exponent 255 and a fraction that is not 0. -/
def isNaN (a : F32) : Bool := decide (fexp a = 255) && decide (ffrac a ≠ 0)

/-- Exponent 255 and fraction 0. -/
def isInf (a : F32) : Bool := decide (fexp a = 255) && decide (ffrac a = 0)

/-- Zeros, subnormals and normal numbers. -/
def isFinite (a : F32) : Bool := decide (fexp a ≠ 255)

/-- The magnitude in units of 2^-149: exponent 0 encodes zeros and subnormals, another exponent a
significand of 24 bits. (An infinity gives a magnitude above every finite one.) -/
def magUnits (a : F32) : Nat :=
  if fexp a = 0 then ffrac a else (2 ^ 23 + ffrac a) * 2 ^ (fexp a - 1)

/-- The value in units of 2^-149. -/
def units (a : F32) : Int := if fneg a then - (magUnits a : Int) else (magUnits a : Int)

/-- The magnitude pattern (bits 30:0) nearest to `m * 2^-(149 + d)`, ties to the even fraction,
without the bound of the format: `e` is how many low bits of `m` are below the last place. -/
def roundMag (m d : Nat) : Nat :=
  let e := max (m.log2 - 23) d
  let q := m / 2 ^ e
  let r := m % 2 ^ e
  let up := if 2 ^ e < 2 * r ∨ (2 * r = 2 ^ e ∧ q % 2 = 1) then 1 else 0
  (e - d) * 2 ^ 23 + (q + up)

/-- The binary32 value nearest to `± m * 2^-(149 + d)`: overflow gives an infinity, underflow a
subnormal or a zero of that sign. -/
def packRound (neg : Bool) (m d : Nat) : F32 :=
  BitVec.ofNat 32 ((if neg then 2 ^ 31 else 0) + min (roundMag m d) infPattern)

/-- The infinity of a sign. -/
def finf (neg : Bool) : F32 := BitVec.ofNat 32 ((if neg then 2 ^ 31 else 0) + infPattern)

/-- The zero of a sign. -/
def fzero (neg : Bool) : F32 := BitVec.ofNat 32 (if neg then 2 ^ 31 else 0)

/-- The IEEE 754 sum; any NaN result is the canonical one. An exact sum of 0 is +0 unless both
operands are -0. -/
def fadd (a b : F32) : F32 :=
  if isNaN a || isNaN b then qnan
  else if isInf a then (if isInf b && (fneg a != fneg b) then qnan else a)
  else if isInf b then b
  else if units a + units b = 0 then fzero (fneg a && fneg b)
  else packRound (decide (units a + units b < 0)) (units a + units b).natAbs 0

/-- The IEEE 754 product; any NaN result is the canonical one. -/
def fmul (a b : F32) : F32 :=
  if isNaN a || isNaN b then qnan
  else if isInf a || isInf b then
    (if magUnits a = 0 ∨ magUnits b = 0 then qnan
     else finf (fneg a != fneg b))
  else packRound (fneg a != fneg b) (magUnits a * magUnits b) 149

/-- A number that orders the patterns that are no NaN as their values, infinities included; -0 and
+0 have the same. -/
def forder (a : F32) : Int :=
  if fneg a then - ((a.extractLsb' 0 31).toNat : Int) else ((a.extractLsb' 0 31).toNat : Int)

/-- Neither is a NaN and a < b. -/
def flt (a b : F32) : Bool := !isNaN a && !isNaN b && decide (forder a < forder b)

/-- Neither is a NaN and a >= b. -/
def fge (a b : F32) : Bool := !isNaN a && !isNaN b && decide (forder b ≤ forder a)

/-- The binary32 value equal to `n`, for `n <= 2^24`. -/
def u2f (n : Nat) : F32 := packRound false (n * oneUnits) 0

/-- The magnitude rounded toward zero to an integer. -/
def ftruncMag (v : F32) : Nat := magUnits v / oneUnits

/-- `f2i`: the two's complement 32-bit integer and the overflow bit: NaN gives (0, 1); outside the
range the nearest end and 1; otherwise truncation toward zero and 0. -/
def f2i (v : F32) : BitVec 32 × Bool :=
  if isNaN v then (0, true)
  else if fneg v then
    (if 2 ^ 31 * oneUnits < magUnits v then (0x80000000, true)
     else (- BitVec.ofNat 32 (ftruncMag v), false))
  else
    (if 2 ^ 31 * oneUnits ≤ magUnits v then (0x7FFFFFFF, true)
     else (BitVec.ofNat 32 (ftruncMag v), false))

/-- `ftrunc_u`, used only where the guard `0 <= v < 1024` has been tested. -/
def ftruncU (v : F32) : Nat := ftruncMag v

end Sys2Proof.Machine
end

