-- ==== Sys2Proof/Machine/Operands.lean ====
section
/-! DEFINITION. The configuration registers by number and their legal values (10_state.md R21;
40_config.md R122), the derived constants (10_state.md R30), the slot entry and colour formats
(R47, R48), and the mapper's index and colour (41_mapper.md R144, R146). -/

namespace Sys2Proof.Machine

/-! ### Configuration registers -/

/-- `Legal(reg, value)` of 40_config.md R122, `value` read as a 32-bit unsigned integer; numbers 5 to
11 take any pattern. -/
def legalCfg (b : Build) (reg : BitVec 4) (value : BitVec 32) : Bool :=
  let v := value.toNat
  match reg.toNat with
  | 0 => decide (2 ≤ v ∧ v ≤ (b.log2nMax : Nat))
  | 1 => decide (1 ≤ v ∧ v ≤ (b.rowsMax : Nat))
  | 2 => decide (v ≤ Config.curveCountMax ∧ v % 8 = 0)
  | 3 => decide (v ≤ Config.iterMax)
  | 4 => decide (v ≤ 14)
  | _ => true

/-- `CFG[reg] <- value`: "low bits for the integer registers, all 32 for binary32"
(40_config.md R122; the numbers are those of 10_state.md R21). Numbers 12 to 15 are reserved and
name no register. -/
def CfgRegs.write (c : CfgRegs) (reg : BitVec 4) (value : BitVec 32) : CfgRegs :=
  match reg.toNat with
  | 0 => { c with log2n := value.setWidth 5 }
  | 1 => { c with pixelSize := value.setWidth 11 }
  | 2 => { c with curveCount := value.setWidth 16 }
  | 3 => { c with iterCount := value.setWidth 10 }
  | 4 => { c with redShift := value.setWidth 4 }
  | 5 => { c with idxScale := value }
  | 6 => { c with da1 := value }
  | 7 => { c with da2 := value }
  | 8 => { c with a1Start0 := value }
  | 9 => { c with a1Start1 := value }
  | 10 => { c with a2Start0 := value }
  | 11 => { c with a2Start1 := value }
  | _ => c

/-- `CFG.A1_STARTh` (10_state.md R29). -/
def CfgRegs.a1Start (c : CfgRegs) : LaneId → F32
  | .lane0 => c.a1Start0
  | .lane1 => c.a1Start1

/-- `CFG.A2_STARTh` (10_state.md R29). -/
def CfgRegs.a2Start (c : CfgRegs) : LaneId → F32
  | .lane0 => c.a2Start0
  | .lane1 => c.a2Start1

/-! ### Derived constants (10_state.md R30) -/

/-- `N = 2^CFG.LOG2N`. -/
def CfgRegs.tableSize (c : CfgRegs) : Nat := 2 ^ c.log2n.toNat

/-- `QUARTER = N/4`. -/
def CfgRegs.quarter (c : CfgRegs) : Nat := c.tableSize / 4

/-- `MASK = N-1`, as a 32-bit pattern. -/
def CfgRegs.mask (c : CfgRegs) : BitVec 32 := BitVec.ofNat 32 (c.tableSize - 1)

/-- `CENTRE = fmul(u2f(CFG.PIXEL_SIZE), 0x3F00_0000)`. -/
def CfgRegs.centre (c : CfgRegs) : F32 := fmul (u2f c.pixelSize.toNat) 0x3F000000

/-- The number of a lane, which is the number of its half (60_exceptions.md R226). -/
def laneNumber : LaneId → Nat
  | .lane0 => 0
  | .lane1 => 1

/-- `HALF_LO(h) = h * CURVE_COUNT/2`. -/
def CfgRegs.halfLo (c : CfgRegs) (h : LaneId) : Nat := laneNumber h * c.curveCount.toNat / 2

/-- `HALF_HI(h) = (h+1) * CURVE_COUNT/2`. -/
def CfgRegs.halfHi (c : CfgRegs) (h : LaneId) : Nat := (laneNumber h + 1) * c.curveCount.toNat / 2

/-! ### Slot entry and colour (10_state.md R47, R48) -/

/-- `Pack(x, c) = {x[9:0], c[5:0]}`. -/
def packEntry (x : BitVec 10) (c : Colour) : Entry :=
  (x.setWidth 16 <<< 6) ||| c.setWidth 16

/-- `EntryX(e) = e[15:6]`. -/
def entryX (e : Entry) : BitVec 10 := e.extractLsb' 6 10

/-- `EntryColour(e) = e[5:0]`. -/
def entryColour (e : Entry) : Colour := e.extractLsb' 0 6

/-- The red channel, `colour[1:0]`. -/
def colourRed (c : Colour) : BitVec 2 := c.extractLsb' 0 2

/-- The green channel, `colour[3:2]`. -/
def colourGreen (c : Colour) : BitVec 2 := c.extractLsb' 2 2

/-- The blue channel, `colour[5:4]`. -/
def colourBlue (c : Colour) : BitVec 2 := c.extractLsb' 4 2

/-! ### The mapper's index and colour -/

/-- `Index(a, p)` (41_mapper.md R144): add, scale, truncate, mask the two's complement pattern. -/
def CfgRegs.index (c : CfgRegs) (a p : F32) : Nat × Bool :=
  let q := fmul (fadd a p) c.idxScale
  (((f2i q).1 &&& c.mask).toNat, (f2i q).2)

/-- `Colour(i, j)` (41_mapper.md R146): two bits of the curve index, the top two bits of the 9-bit
iteration counter, and `(7 - (red + green)) >> 1`. -/
def CfgRegs.colour (c : CfgRegs) (i : BitVec 16) (j : BitVec 10) : Colour :=
  let red : BitVec 2 := i.extractLsb' c.redShift.toNat 2
  let green : BitVec 2 := j.extractLsb' 7 2
  let blue : BitVec 2 := BitVec.ofNat 2 ((7 - (red.toNat + green.toNat)) / 2)
  (blue.setWidth 6 <<< 4) ||| ((green.setWidth 6 <<< 2) ||| red.setWidth 6)

/-- The 16-bit count word of SLINE, `zext_16(n)` (30_encoding.md R99). -/
def countWord (n : BitVec 11) : BitVec 16 := n.setWidth 16

end Sys2Proof.Machine
end

