-- ==== Sys2Proof/Machine/Ops.lean ====
section
/-! DEFINITION. The named operations over registers, memories, ports and response streams. Every
memory access of a meaning goes through a primitive of this file (00_scope.md R9), and every error
through `State.raise` of Machine/Flags.lean and `State.reject` here (60_exceptions.md R210, R217). -/

namespace Sys2Proof.Machine

/-- What one step answers. -/
abbrev Out := Host.Outcome State Fault Refusal

/-- Goes on with a value, or stops with the fault a memory primitive met. -/
def orFault {α : Type} (r : Except Fault α) (k : α → Out) : Out :=
  match r with
  | .ok a => k a
  | .error f => .fault f

/-! ### Lanes and banks -/

/-- The registers of lane `h` (10_state.md R37). -/
def State.lane (s : State) : LaneId → LaneRegs
  | .lane0 => s.lane0
  | .lane1 => s.lane1

/-- Replaces the registers of lane `h`; no other lane's change (10_state.md R37). -/
def State.setLane (s : State) (h : LaneId) (r : LaneRegs) : State :=
  match h with
  | .lane0 => { s with lane0 := r }
  | .lane1 => { s with lane1 := r }

/-- Replaces the memories. -/
def State.setMem (s : State) (m : Memory) : State := { s with mem := m }

/-! ### Memory primitives (00_scope.md R9; 20_memory.md R60, R61) -/

/-- What LUT element `k` holds: the element written last, or the free value it has had since the
last reset (10_state.md R43; log 2). -/
def State.lutVal (s : State) (k : Nat) : F32 :=
  (cellsGet? s.mem.lut k).getD (Config.lutAtReset s.epoch k)

/-- What CAP holds for a row (10_state.md R44). -/
def State.capVal (s : State) (row : Nat) : BitVec 11 := cellsGetZ s.mem.cap row

/-- What CNT holds for a row of a bank (10_state.md R45). -/
def State.cntVal (s : State) (b : BankId) (row : Nat) : BitVec 11 :=
  cellsGetZ (s.mem.bank b).cnt row

/-- What a slot element holds: the element written last, or the free value it has had since the last
reset (10_state.md R46; log 3). -/
def State.slotVal (s : State) (b : BankId) (row k : Nat) : Entry :=
  (cellsGet? (s.mem.bank b).slot (slotKey row k)).getD
    (Config.slotAtReset s.epoch b.number (slotKey row k))

/-- `MemRead(LUT:k, 32)`. -/
def State.readLut (s : State) (k : Nat) : Except Fault F32 :=
  if k < s.build.lutDepth then .ok (s.lutVal k) else .error (.outsideSpace .lut k)

/-- `MemWrite(LUT:k, 32, v)`. -/
def State.writeLut (s : State) (k : Nat) (v : F32) : Except Fault State :=
  if k < s.build.lutDepth then .ok (s.setMem { s.mem with lut := cellsPut s.mem.lut k v })
  else .error (.outsideSpace .lut k)

/-- `MemRead(CAP:row, 11)`. -/
def State.readCap (s : State) (row : Nat) : Except Fault (BitVec 11) :=
  if row < s.build.rowsMax then .ok (s.capVal row) else .error (.outsideSpace .cap row)

/-- `MemWrite(CAP:row, 11, v)`. -/
def State.writeCap (s : State) (row : Nat) (v : BitVec 11) : Except Fault State :=
  if row < s.build.rowsMax then .ok (s.setMem { s.mem with cap := cellsPutZ s.mem.cap row v })
  else .error (.outsideSpace .cap row)

/-- `MemRead(CNT:(b, row), 11)`. -/
def State.readCnt (s : State) (b : BankId) (row : Nat) : Except Fault (BitVec 11) :=
  if row < s.build.rowsMax then .ok (s.cntVal b row) else .error (.outsideSpace .cnt row)

/-- The memories with CNT of one row of a bank replaced. -/
def Memory.putCnt (m : Memory) (b : BankId) (row : Nat) (v : BitVec 11) : Memory :=
  m.setBank b { m.bank b with cnt := cellsPutZ (m.bank b).cnt row v }

/-- `MemWrite(CNT:(b, row), 11, v)`. -/
def State.writeCnt (s : State) (b : BankId) (row : Nat) (v : BitVec 11) : Except Fault State :=
  if row < s.build.rowsMax then .ok (s.setMem (s.mem.putCnt b row v))
  else .error (.outsideSpace .cnt row)

/-- `MemRead(SLOT:(b, row, k), 16)`. -/
def State.readSlot (s : State) (b : BankId) (row k : Nat) : Except Fault Entry :=
  if row < s.build.rowsMax ∧ k < s.build.capMax then .ok (s.slotVal b row k)
  else .error (.outsideSpace .slot (slotKey row k))

/-- The memories with one slot element of a bank replaced. -/
def Memory.putSlot (m : Memory) (b : BankId) (row k : Nat) (v : Entry) : Memory :=
  m.setBank b { m.bank b with slot := cellsPut (m.bank b).slot (slotKey row k) v }

/-- `MemWrite(SLOT:(b, row, k), 16, v)`. -/
def State.writeSlot (s : State) (b : BankId) (row k : Nat) (v : Entry) : Except Fault State :=
  if row < s.build.rowsMax ∧ k < s.build.capMax then .ok (s.setMem (s.mem.putSlot b row k v))
  else .error (.outsideSpace .slot (slotKey row k))

/-- Reads the slot elements `k .. k+n-1` of a row, in index order. -/
def State.readEntries (s : State) (b : BankId) (row : Nat) : (k n : Nat) → Except Fault (List Entry)
  | _, 0 => .ok []
  | k, n + 1 =>
    match s.readSlot b row k with
    | .error f => .error f
    | .ok e =>
      match s.readEntries b row (k + 1) n with
      | .error f => .error f
      | .ok es => .ok (e :: es)

/-- The valid entries of a row of a bank, in index order: `k < CNT[b][row]` (10_state.md R46). -/
def State.rowEntries (s : State) (b : BankId) (row : Nat) : List Entry :=
  (List.range (s.cntVal b row).toNat).map (s.slotVal b row)

/-! ### Ports, holds and responses -/

/-- The port of a name. -/
def State.port (s : State) : PortId → Port
  | .h => s.portH
  | .s => s.portS

/-- Replaces the port of a name. -/
def State.setPort (s : State) (p : PortId) (q : Port) : State :=
  match p with
  | .h => { s with portH := q }
  | .s => { s with portS := q }

/-- The word a port presents, if any: one at a time, the one at the command pointer
(20_memory.md R76; 10_state.md R54(a)). -/
def State.presented (s : State) (p : PortId) : Option Word := (s.port p).words[(s.port p).cp]?

/-- Accepts the presented command: the command pointer "advances by 1 when the command at cp is
accepted, and cannot be changed otherwise" (10_state.md R54(a)). -/
def State.accept (s : State) (p : PortId) : State :=
  s.setPort p { s.port p with cp := (s.port p).cp + 1 }

/-- A command that raises: it is consumed and takes no other effect (60_exceptions.md R210, R212,
R213). -/
def State.reject (s : State) (c : Cause) (p : PortId) : Out := .next ((s.raise c).accept p)

/-- `hold until C`: while `ready` is false the command is not accepted and no state changes
(00_scope.md R11; 43_sync_scanout.md R194). -/
def State.holdUntil (s : State) (ready : Bool) (effect : Out) : Out :=
  if ready then effect else .next s

/-- Runs a port H command that the mode test lets through, or raises STATE (30_encoding.md R97,
test 3; 60_exceptions.md R223). -/
def State.inMode (s : State) (m : Mode) (effect : Out) : Out :=
  if s.mode = m then effect else s.reject .state .h

/-- `respond(H, ws)` (30_encoding.md R99). -/
def State.respondH (s : State) (ws : List (BitVec 32)) : State := { s with respH := s.respH ++ ws }

/-- `respond(S, ws)` (30_encoding.md R99). -/
def State.respondS (s : State) (ws : List (BitVec 16)) : State := { s with respS := s.respS ++ ws }

/-! ### The Plot primitive (42_slots.md R171) -/

/-- What a Plot does to a row with count `n`, capacity `cap` and valid entries `es`: a full row drops
the sample whatever its x; otherwise the first entry with that x is overwritten; otherwise the
sample is appended at index `n` (42_slots.md R171; 90_conflicts.md C2). -/
inductive PlotAction where
  | drop
  | overwrite (k : Nat)
  | append (k : Nat)
  deriving DecidableEq, Repr

/-- The choice that Plot makes (42_slots.md R171). -/
def plotAction (n cap : Nat) (es : List Entry) (x : BitVec 10) : PlotAction :=
  if cap ≤ n then .drop
  else match es.findIdx? (fun e => entryX e == x) with
    | some k => .overwrite k
    | none => .append n

/-- What a Plot of `x` to `row` would do in state `s` (42_slots.md R171). -/
def State.plotActionAt (s : State) (row : Nat) (x : BitVec 10) : PlotAction :=
  plotAction (s.cntVal s.writeBank row).toNat (s.capVal row).toNat
    (s.rowEntries s.writeBank row) x

/-- The entries that Plot scans: none when the row is full (42_slots.md R171). -/
def State.scannedEntries (s : State) (b : BankId) (row : Nat) (n cap : BitVec 11) :
    Except Fault (List Entry) :=
  if cap.toNat ≤ n.toNat then .ok [] else s.readEntries b row 0 n.toNat

/-- `Plot(row, x, c)` (42_slots.md R171), in the write bank as read in this step
(20_memory.md R70). -/
def State.plot (s : State) (row : Nat) (x : BitVec 10) (c : Colour) : Except Fault State := do
  let b := s.writeBank
  let n ← s.readCnt b row
  let cap ← s.readCap row
  let es ← s.scannedEntries b row n cap
  match plotAction n.toNat cap.toNat es x with
  | .drop => .ok s
  | .overwrite k => s.writeSlot b row k (packEntry x c)
  | .append k => do
    let t ← s.writeSlot b row k (packEntry x c)
    t.writeCnt b row (n + 1)

/-! ### The reset pin (70_reset_and_hazards.md R240) -/

/-- A port after the reset pin: the word it presents is discarded (70_reset_and_hazards.md R240:
"a held JOIN or SWAP is discarded together with anything else presented on the ports"). Log 7. -/
def Port.discard (p : Port) : Port :=
  if p.cp < p.words.length then { p with cp := p.cp + 1 } else p

/-- Reset applied to a state: "every piece of state takes the value given in 10_state.md rule R53";
the implementation's limits and the inputs not presented yet stay, and a new epoch of unspecified
memory contents begins. Logs 2 and 7. -/
def State.applyReset (s : State) : State :=
  { State.reset with
    build := s.build, portH := s.portH.discard, portS := s.portS.discard,
    turns := s.turns, ticks := s.ticks, epoch := s.epoch + 1 }

/-! ### Turns (20_memory.md R69; log 4) -/

/-- Whose turn the next step is: the first turn placed, or, when none is, the free value at
`ticks`. -/
def State.currentTurn (s : State) : Turn :=
  match s.turns with
  | t :: _ => t
  | [] => Config.schedule s.ticks

/-- The state with that turn used up. -/
def State.passTurn (s : State) : State :=
  match s.turns with
  | _ :: ts => { s with turns := ts }
  | [] => { s with ticks := s.ticks + 1 }

/-! ### Placing a word on a port (log 5) -/

/-- The port whose opcodes a word's opcode is among: "0x30 to 0x3F the sink operations"
(30_encoding.md R93). -/
def portOfWord (w : Word) : PortId := if (opOf w).toNat / 16 = 3 then .s else .h

/-- The port with `w` in place of the word it presents. -/
def Port.place (p : Port) (w : Word) : Port :=
  { words := p.words.take p.cp ++ w :: p.words.drop (p.cp + 1), cp := min p.cp p.words.length }

/-- `s` with `w` presented on the port of its opcode, and that port's agent first to take a turn. -/
def State.placeWord (s : State) (w : Word) : State :=
  let p := portOfWord w
  { s.setPort p ((s.port p).place w) with turns := p.turn :: s.turns }

end Sys2Proof.Machine
end

