-- ==== Sys2Proof/Machine/ConfigCmds.lean ====
section
/-! DEFINITION. The configuration and status commands (40_config.md): NOP, CFGW, LUTW, CAPW, LOCK,
STAT. A meaning starts after decode tests 1 and 2 of 30_encoding.md R97 have passed. -/

namespace Sys2Proof.Machine

/-- NOP (40_config.md R121): accepted at once, nothing else changes. -/
def execNop (s : State) : Out := .next (s.accept .h)

/-- CFGW reg, value (40_config.md R122). A register number of 12 to 15 is the error ILL, before the
mode test (30_encoding.md R96, R97). -/
def execCfgw (reg : BitVec 4) (value : BitVec 32) (s : State) : Out :=
  if lastCfgReg < reg.toNat then s.reject .ill .h
  else s.inMode .cfg <|
    if legalCfg s.build reg value then
      .next ({ s with cfg := s.cfg.write reg value }.accept .h)
    else s.reject .range .h

/-- LUTW idx, value (40_config.md R123): the test is against the physical depth. -/
def execLutw (idx : BitVec 17) (value : F32) (s : State) : Out :=
  s.inMode .cfg <|
    if s.build.lutDepth ≤ idx.toNat then s.reject .range .h
    else orFault (s.writeLut idx.toNat value) fun t => .next (t.accept .h)

/-- CAPW row, cap (40_config.md R124). -/
def execCapw (row : BitVec 10) (cap : BitVec 11) (s : State) : Out :=
  s.inMode .cfg <|
    if (s.build.rowsMax : Nat) ≤ row.toNat ∨ (s.build.capMax : Nat) < cap.toNat then
      s.reject .range .h
    else orFault (s.writeCap row.toNat cap) fun t => .next (t.accept .h)

/-- LOCK (40_config.md R125): leaves CFG mode and checks nothing. -/
def execLock (s : State) : Out :=
  s.inMode .cfg <| .next ((s.setFlag modeBit true).accept .h)

/-- STAT (40_config.md R126): responds STATUS as of this step. -/
def execStat (s : State) : Out := .next ((s.respondH [s.status]).accept .h)

end Sys2Proof.Machine
end

