-- ==== Sys2Proof/Machine/Mapper.lean ====
section
/-! DEFINITION. The trigonometric mapper (41_mapper.md): GEN, the iteration step and the
end-of-curve step of a lane. -/

namespace Sys2Proof.Machine

/-- The lane registers that GEN `h, time` writes (41_mapper.md R141). -/
def CfgRegs.laneStart (c : CfgRegs) (h : LaneId) (time : F32) : LaneRegs :=
  { x := c.centre, y := c.centre, a1 := fadd time (c.a1Start h), a2 := fadd time (c.a2Start h),
    i := BitVec.ofNat 16 (c.halfLo h), j := 0 }

/-- GEN h, time (41_mapper.md R141): starts lane `h` on half `h`, and does not wait for it. -/
def execGen (h : LaneId) (time : F32) (s : State) : Out :=
  s.inMode .run <|
    if s.busy h then s.reject .state .h
    else .next (((s.setLane h (s.cfg.laneStart h time)).setFlag (busyBit h)
      (decide (s.cfg.halfLo h < s.cfg.halfHi h))).accept .h)

/-! ### Lane steps -/

/-- One sample: the position after the update, and its colour (00_scope.md R13; 41_mapper.md R143). -/
structure Sample where
  x : F32
  y : F32
  c : Colour
  deriving DecidableEq, Repr

/-- The two table indices of an iteration and whether either conversion overflowed
(41_mapper.md R143, R144): angle 1 with x, angle 2 with y. -/
def CfgRegs.indices (c : CfgRegs) (r : LaneRegs) : Nat × Nat × Bool :=
  let a := c.index r.a1 r.x
  let b := c.index r.a2 r.y
  (a.1, b.1, a.2 || b.2)

/-- The sample of lane `h`'s next iteration (41_mapper.md R143, R145): x' is the sum of the two plain
reads, y' of the two reads a quarter period on. -/
def State.laneSample (s : State) (h : LaneId) : Except Fault Sample :=
  let r := s.lane h
  let ia := (s.cfg.indices r).1
  let ib := (s.cfg.indices r).2.1
  do
    let sa ← s.readLut ia
    let sb ← s.readLut ib
    let ca ← s.readLut (ia + s.cfg.quarter)
    let cb ← s.readLut (ib + s.cfg.quarter)
    .ok { x := fadd sa sb, y := fadd ca cb, c := s.cfg.colour r.i r.j }

/-- The test of `Emit` (41_mapper.md R147), made on the binary32 values. -/
def CfgRegs.inGrid (c : CfgRegs) (p : Sample) : Bool :=
  let size := u2f c.pixelSize.toNat
  fge p.x 0 && flt p.x size && (fge p.y 0 && flt p.y size)

/-- `Emit(x', y', c)` (41_mapper.md R147): Plot at row `trunc(y')`, column `trunc(x')`, or raise RANGE
and plot nothing. -/
def State.emit (s : State) (p : Sample) : Except Fault State :=
  if s.cfg.inGrid p then s.plot (ftruncU p.y) (BitVec.ofNat 10 (ftruncU p.x)) p.c
  else .ok (s.raise .range)

/-- `raise NUM` if a conversion overflowed; the step goes on (41_mapper.md R143;
60_exceptions.md R215). -/
def State.raiseNumIf (s : State) (ovf : Bool) : State := if ovf then s.raise .num else s

/-- The registers after an iteration step that gave sample `p` (41_mapper.md R143). -/
def LaneRegs.iterated (r : LaneRegs) (p : Sample) : LaneRegs :=
  { r with x := p.x, y := p.y, j := r.j + 1 }

/-- The iteration step of lane `h` (41_mapper.md R143). -/
def iterationStep (h : LaneId) (s : State) : Out :=
  orFault (s.laneSample h) fun p =>
    orFault (((s.raiseNumIf (s.cfg.indices (s.lane h)).2.2).setLane h
      ((s.lane h).iterated p)).emit p) fun t => .next t

/-- The registers after an end-of-curve step (41_mapper.md R148). -/
def CfgRegs.nextCurve (c : CfgRegs) (r : LaneRegs) : LaneRegs :=
  { x := c.centre, y := c.centre, a1 := fadd r.a1 c.da1, a2 := fadd r.a2 c.da2,
    i := r.i + BitVec.ofNat 16 Config.curveStep, j := 0 }

/-- The end-of-curve step is the lane's last: `L[h].i + 4 >= HALF_HI(h)`, with `i` as at the start of
the step (41_mapper.md R148; 00_scope.md R7). -/
def CfgRegs.lastCurve (c : CfgRegs) (h : LaneId) (r : LaneRegs) : Bool :=
  decide (c.halfHi h ≤ r.i.toNat + Config.curveStep)

/-- The end-of-curve step of lane `h` (41_mapper.md R148). -/
def endOfCurveStep (h : LaneId) (s : State) : Out :=
  let t := s.setLane h (s.cfg.nextCurve (s.lane h))
  .next (if s.cfg.lastCurve h (s.lane h) then t.setFlag (busyBit h) false else t)

/-- A turn of lane `h` (41_mapper.md R142): an idle lane has no step, a busy one always has. -/
def laneStep (h : LaneId) (s : State) : Out :=
  if s.busy h then
    if (s.lane h).j.toNat < s.cfg.iterCount.toNat then iterationStep h s else endOfCurveStep h s
  else .next s

end Sys2Proof.Machine
end

