-- ==== Sys2Proof/Machine/Slots.lean ====
section
/-! DEFINITION. The commands of the slot accumulator (42_slots.md): PLOT and CLEAR. -/

namespace Sys2Proof.Machine

/-- PLOT row, x, colour (42_slots.md R172): one Plot from the host, whether or not lanes run. -/
def execPlot (row x : BitVec 10) (colour : Colour) (s : State) : Out :=
  s.inMode .run <|
    if s.cfg.pixelSize.toNat ≤ row.toNat ∨ s.cfg.pixelSize.toNat ≤ x.toNat then
      s.reject .range .h
    else orFault (s.plot row.toNat x colour) fun t => .next (t.accept .h)

/-- The memories with every count of rows `0 .. rows-1` of a bank 0 (42_slots.md R173). -/
def Memory.clearCounts (m : Memory) (b : BankId) (rows : Nat) : Memory :=
  m.setBank b { m.bank b with cnt := cellsDropBelow (m.bank b).cnt rows }

/-- CLEAR (42_slots.md R173): the counts of the write bank become 0, all in one step; refused with
STATE while a lane runs. -/
def execClear (s : State) : Out :=
  s.inMode .run <|
    if s.anyBusy then s.reject .state .h
    else .next ((s.setMem (s.mem.clearCounts s.writeBank s.build.rowsMax)).accept .h)

end Sys2Proof.Machine
end

