-- ==== Sys2Proof/Machine/Sync.lean ====
section
/-! DEFINITION. Synchronisation and scan-out (43_sync_scanout.md): JOIN, SWAP, VSYNC, SLINE. -/

namespace Sys2Proof.Machine

/-- JOIN (43_sync_scanout.md R190): held until both lanes are idle, then accepted; nothing else
changes. -/
def execJoin (s : State) : Out :=
  s.inMode .run <| s.holdUntil (!s.anyBusy) (.next (s.accept .h))

/-- SWAP is ready: both lanes idle and a refresh notification pending (43_sync_scanout.md R191). -/
def State.swapReady (s : State) : Bool := !s.anyBusy && s.vsp

/-- SWAP (43_sync_scanout.md R191): held until ready, then WB toggles and VSP is consumed. -/
def execSwap (s : State) : Out :=
  s.inMode .run <| s.holdUntil s.swapReady
    (.next (((s.setFlag wbBit (!s.flag wbBit)).setFlag vspBit false).accept .h))

/-- SLINE row (43_sync_scanout.md R193): responds the count and the entries of the display bank in
index order; a row outside the grid responds the count word 0 and raises RANGE. -/
def execSline (row : BitVec 10) (s : State) : Out :=
  if s.cfg.pixelSize.toNat ≤ row.toNat then (s.respondS [0]).reject .range .s
  else orFault (s.readCnt s.displayBank row.toNat) fun n =>
    orFault (s.readEntries s.displayBank row.toNat 0 n.toNat) fun es =>
      .next ((s.respondS (countWord n :: es)).accept .s)

/-- VSYNC (43_sync_scanout.md R192): sets the binary latch VSP. -/
def execVsync (s : State) : Out := .next ((s.setFlag vspBit true).accept .s)

end Sys2Proof.Machine
end

