-- ==== Sys2Proof/Machine/Dispatch.lean ====
section
/-! DEFINITION. One arm for each command: the meaning of its rule. -/

namespace Sys2Proof.Machine

def exec (i : Instr) (s : State) : Host.Outcome State Fault Refusal :=
  match i with
  | .nop => Sys2Proof.Machine.execNop s
  | .cfgw reg value => Sys2Proof.Machine.execCfgw reg value s
  | .lutw idx value => Sys2Proof.Machine.execLutw idx value s
  | .capw row cap => Sys2Proof.Machine.execCapw row cap s
  | .lock => Sys2Proof.Machine.execLock s
  | .stat => Sys2Proof.Machine.execStat s
  | .clear => Sys2Proof.Machine.execClear s
  | .plot row x colour => Sys2Proof.Machine.execPlot row x colour s
  | .gen h time => Sys2Proof.Machine.execGen h time s
  | .join => Sys2Proof.Machine.execJoin s
  | .swap => Sys2Proof.Machine.execSwap s
  | .sline row => Sys2Proof.Machine.execSline row s
  | .vsync => Sys2Proof.Machine.execVsync s

end Sys2Proof.Machine
end

