-- ==== Sys2Proof/Machine/Agents.lean ====
section
/-! DEFINITION. A turn of each agent (00_scope.md R2) and of the reset pin. -/

namespace Sys2Proof.Machine

/-- A turn of the agent behind a port. With no command presented nothing happens (60_exceptions.md
R228); a word that stands for no command on this port is accepted and raises ILL (30_encoding.md
R95, R96); a command runs. A held command answers the state it started from, so the port presents
it again (00_scope.md R11). Log 6. -/
def portStep (p : PortId) (s : State) : Out :=
  match s.presented p with
  | none => .next s
  | some w =>
    match decodeOn p w with
    | .error _ => s.reject .ill p
    | .ok i => exec i s

/-- One turn (20_memory.md R65, R69: one atomic step of one agent). -/
def runTurn (t : Turn) (s : State) : Out :=
  match t with
  | .host => portStep .h s
  | .sink => portStep .s s
  | .lane h => laneStep h s
  | .resetPin => .next s.applyReset

end Sys2Proof.Machine
end

