-- ==== Sys2Proof/Machine/Step.lean ====
section
/-! DEFINITION. One step: the turn that is due, taken on the state with that turn used up. -/

namespace Sys2Proof.Machine

/-- One atomic step of one agent (20_memory.md R65, R69). -/
def step (s : State) : Host.Outcome State Fault Refusal := runTurn s.currentTurn s.passTurn

/-- `s` with the word `w` of `nbits` bits presented on the port of its opcode, whose agent takes the
next turn: it stands for the load of a program from outside (log 5). -/
def State.withFetchWord (s : State) (nbits w : Nat) : State := s.placeWord (tableWord nbits w)

end Sys2Proof.Machine
end

