-- ==== Sys2Proof/Machine/Assembler.lean ====
section
/-! DEFINITION. The assembler notation of 30_encoding.md R100 and the pseudo-instructions of R101.
A line is a list of characters; it stands for a list of commands, each with its port. Nothing of
the machine depends on this file. Log 15. -/

namespace Sys2Proof.Machine

/-! ### Literals (30_encoding.md R100) -/

/-- The value of a hexadecimal digit. -/
def hexDigit? (c : Char) : Option Nat :=
  if '0' ≤ c ∧ c ≤ '9' then some (c.toNat - '0'.toNat)
  else if 'a' ≤ c ∧ c ≤ 'f' then some (c.toNat - 'a'.toNat + 10)
  else if 'A' ≤ c ∧ c ≤ 'F' then some (c.toNat - 'A'.toNat + 10)
  else none

/-- The value of digits of a base, read after `acc`; an underscore is a separator (00_scope.md R7). -/
def digitsFrom (base : Nat) : (acc : Nat) → List Char → Option Nat
  | acc, [] => some acc
  | acc, c :: cs =>
    if c = '_' then digitsFrom base acc cs
    else match hexDigit? c with
      | some d => if d < base then digitsFrom base (acc * base + d) cs else none
      | none => none

/-- The value of a string of at least one digit. -/
def digits? (base : Nat) (cs : List Char) : Option Nat :=
  if cs.all (fun c => c == '_') then none else digitsFrom base 0 cs

/-- "An integer is decimal or `0x` hexadecimal." -/
def intLiteral? : List Char → Option Nat
  | '0' :: 'x' :: cs => digits? 16 cs
  | cs => digits? 10 cs

/-- The binary32 value nearest to `± num / 10^places`, ties to even: the quotient is taken with 64
bits below the last unit and one more bit that says whether anything is left below them. -/
def decimalToF32 (neg : Bool) (num places : Nat) : F32 :=
  let scaled := num * 2 ^ (149 + 64)
  let ten := 10 ^ places
  packRound neg (2 * (scaled / ten) + (if scaled % ten = 0 then 0 else 1)) 65

/-- A decimal number with a decimal point, and the sign before it. -/
def decimalLiteral? (neg : Bool) (cs : List Char) : Option F32 :=
  let whole := cs.takeWhile (fun c => c != '.')
  match cs.dropWhile (fun c => c != '.') with
  | '.' :: frac =>
    match digits? 10 whole, digits? 10 frac with
    | some w, some f =>
      let places := (frac.filter fun c => c != '_').length
      some (decimalToF32 neg (w * 10 ^ places + f) places)
    | _, _ => none
  | _ => none

/-- "A binary32 literal is either a 32-bit pattern written `0x` and eight hexadecimal digits, or a
decimal number with a decimal point." -/
def f32Literal? : List Char → Option F32
  | '0' :: 'x' :: cs =>
    if (cs.filter fun c => c != '_').length = 8 then (digits? 16 cs).map (BitVec.ofNat 32) else none
  | '-' :: cs => decimalLiteral? true cs
  | cs => decimalLiteral? false cs

/-- An integer literal that fits a field of `n` bits. -/
def field? (n : Nat) (cs : List Char) : Option (BitVec n) :=
  match intLiteral? cs with
  | some v => if v < 2 ^ n then some (BitVec.ofNat n v) else none
  | none => none

/-- The register names of 10_state.md R21, in number order. -/
def cfgRegNames : List String := ["LOG2N", "PIXEL_SIZE", "CURVE_COUNT", "ITER_COUNT", "RED_SHIFT",
  "IDX_SCALE", "DA1", "DA2", "A1_START0", "A1_START1", "A2_START0", "A2_START1"]

/-- "`reg` a number 0 .. 11 or a register name." -/
def cfgReg? (cs : List Char) : Option (BitVec 4) :=
  match cfgRegNames.findIdx? (fun n => n.toList == cs) with
  | some k => some (BitVec.ofNat 4 k)
  | none =>
    match field? 4 cs with
    | some r => if r.toNat ≤ lastCfgReg then some r else none
    | none => none

/-- "`h` 0 or 1." -/
def lane? (cs : List Char) : Option LaneId := (field? 1 cs).map fun b => laneOfBit (b.getLsbD 0)

/-- "`value` an integer, or for registers 5 to 11 a binary32 literal." -/
def cfgValue? (reg : BitVec 4) (cs : List Char) : Option (BitVec 32) :=
  if reg.toNat < 5 then field? 32 cs else f32Literal? cs

/-! ### Pseudo-instructions (30_encoding.md R101) -/

/-- `FRAME time`. -/
def frameExpansion (time : F32) : List Instr :=
  [.clear, .gen .lane0 time, .gen .lane1 time, .join, .swap]

/-- `LUTFILL base, v0, v1, ..., vm`, if every index fits its field. -/
def lutFill (base : Nat) (vs : List F32) : Option (List Instr) :=
  if base + vs.length ≤ 2 ^ 17 then
    some (vs.mapIdx fun k v => .lutw (BitVec.ofNat 17 (base + k)) v)
  else none

/-- `CAPFILL base, c0, c1, ..., cm`, if every row fits its field. -/
def capFill (base : Nat) (cs : List (BitVec 11)) : Option (List Instr) :=
  if base + cs.length ≤ 2 ^ 10 then
    some (cs.mapIdx fun k c => .capw (BitVec.ofNat 10 (base + k)) c)
  else none

/-! ### Lines -/

/-- The values of all the words, if each has one. -/
def allSome {α : Type} (f : List Char → Option α) : List (List Char) → Option (List α)
  | [] => some []
  | w :: ws =>
    match f w, allSome f ws with
    | some v, some vs => some (v :: vs)
    | _, _ => none

/-- The commands of a mnemonic and its operands (30_encoding.md R100, R101). -/
def assembleWords (mnemonic : String) (ops : List (List Char)) : Option (List Instr) :=
  match ops with
  | [] =>
    if mnemonic = "NOP" then some [.nop]
    else if mnemonic = "LOCK" then some [.lock]
    else if mnemonic = "STAT" then some [.stat]
    else if mnemonic = "CLEAR" then some [.clear]
    else if mnemonic = "JOIN" then some [.join]
    else if mnemonic = "SWAP" then some [.swap]
    else if mnemonic = "VSYNC" then some [.vsync]
    else none
  | a :: rest =>
    if mnemonic = "LUTFILL" then do
      let base ← intLiteral? a
      lutFill base (← allSome f32Literal? rest)
    else if mnemonic = "CAPFILL" then do
      let base ← intLiteral? a
      capFill base (← allSome (field? 11) rest)
    else match rest with
      | [] =>
        if mnemonic = "SLINE" then (field? 10 a).map fun r => [.sline r]
        else if mnemonic = "FRAME" then (f32Literal? a).map frameExpansion
        else none
      | [b] =>
        if mnemonic = "CFGW" then do
          let reg ← cfgReg? a
          let value ← cfgValue? reg b
          some [.cfgw reg value]
        else if mnemonic = "LUTW" then do
          let idx ← field? 17 a
          let value ← f32Literal? b
          some [.lutw idx value]
        else if mnemonic = "CAPW" then do
          let row ← field? 10 a
          let cap ← field? 11 b
          some [.capw row cap]
        else if mnemonic = "GEN" then do
          let h ← lane? a
          let time ← f32Literal? b
          some [.gen h time]
        else none
      | [b, c] =>
        if mnemonic = "PLOT" then do
          let row ← field? 10 a
          let x ← field? 10 b
          let colour ← field? 6 c
          some [.plot row x colour]
        else none
      | _ => none

/-- The words of a line, split at blanks and commas; `;` starts a comment. -/
def lineWords : (word : List Char) → List Char → List (List Char)
  | word, [] => if word.isEmpty then [] else [word.reverse]
  | word, c :: cs =>
    if c = ';' then (if word.isEmpty then [] else [word.reverse])
    else if c = ' ' ∨ c = ',' then
      (if word.isEmpty then lineWords [] cs else word.reverse :: lineWords [] cs)
    else lineWords (c :: word) cs

/-- The commands of a line on a port. -/
def assembleOn (p : PortId) (ws : List (List Char)) : Option (List (PortId × Instr)) :=
  match ws with
  | [] => some []
  | m :: ops => (assembleWords (String.ofList m) ops).map fun is => is.map fun i => (p, i)

/-- The commands a line stands for, each with its port: "a leading `H:` or `S:` naming the port ...
(a line without it is port H)" (30_encoding.md R100). -/
def assembleLine (line : List Char) : Option (List (PortId × Instr)) :=
  match lineWords [] line with
  | ['H', ':'] :: ws => assembleOn .h ws
  | ['S', ':'] :: ws => assembleOn .s ws
  | ws => assembleOn .h ws

end Sys2Proof.Machine
end

