-- ==== Sys2Proof/Safety.lean ====
section
/-! DEFINITION. What counts as a good state and a good run, in the terms the claims use: the
invariant, the error-free states, the end of a run, the steps a lane has left, the permission table,
correct rounding, and what the host's table must hold. -/

namespace Sys2Proof.Machine

/-! ### The invariant -/

/-- Every register holds a legal value (10_state.md R21; 40_config.md R122). -/
abbrev CfgLegal (b : Build) (c : CfgRegs) : Prop :=
  (2 ≤ c.log2n.toNat ∧ c.log2n.toNat ≤ b.log2nMax) ∧
  (1 ≤ c.pixelSize.toNat ∧ c.pixelSize.toNat ≤ b.rowsMax) ∧
  (c.curveCount.toNat ≤ Config.curveCountMax ∧ c.curveCount.toNat % 8 = 0) ∧
  c.iterCount.toNat ≤ Config.iterMax ∧ c.redShift.toNat ≤ 14

/-- Every listed slot element has a row and a place inside the space (20_memory.md R60). -/
abbrev SlotInSpace (b : Build) (k : Bank) : Prop :=
  ∀ c ∈ k.slot, c.1 / 1024 < b.rowsMax ∧ c.1 % 1024 < b.capMax

/-- Every listed element has an index inside its space (00_scope.md R9; 20_memory.md R60). -/
abbrev MemInSpace (b : Build) (m : Memory) : Prop :=
  (∀ c ∈ m.lut, c.1 < b.lutDepth) ∧ (∀ c ∈ m.cap, c.1 < b.rowsMax ∧ c.2.toNat ≤ b.capMax) ∧
  (∀ c ∈ m.bank0.cnt, c.1 < b.rowsMax) ∧ (∀ c ∈ m.bank1.cnt, c.1 < b.rowsMax) ∧
  SlotInSpace b m.bank0 ∧ SlotInSpace b m.bank1

/-- The invariant of the slot memory for one row (10_state.md R49): the count is at most the
capacity, every valid entry has been written (R46), and the x fields are pairwise different. -/
abbrev RowOk (s : State) (b : BankId) (row : Nat) : Prop :=
  (s.cntVal b row).toNat ≤ (s.capVal row).toNat ∧
  (∀ k < (s.cntVal b row).toNat, (cellsGet? (s.mem.bank b).slot (slotKey row k)).isSome) ∧
  ((s.rowEntries b row).map entryX).Nodup

/-- The registers of a running lane (10_state.md R40, R41): `i` is a multiple of 4 with a whole curve
below the end of the half, and `j` counts up to ITER_COUNT. -/
abbrev LaneOk (s : State) (h : LaneId) : Prop :=
  (s.lane h).i.toNat % 4 = 0 ∧ s.cfg.halfLo h ≤ (s.lane h).i.toNat ∧
  (s.lane h).i.toNat + 4 ≤ s.cfg.halfHi h ∧ (s.lane h).j.toNat ≤ s.cfg.iterCount.toNat

/-- What every reachable state is: the conjunction of the invariants the spec states or derives. -/
structure Inv (s : State) : Prop where
  /-- The implementation has a row and a table of at least four elements (00_scope.md R5). -/
  build : 1 ≤ (s.build.rowsMax : Nat) ∧ 2 ≤ (s.build.log2nMax : Nat)
  /-- 10_state.md R21: "a register never holds an illegal value". -/
  cfg : CfgLegal s.build s.cfg
  /-- 10_state.md R31: the reserved bits read 0. -/
  status : s.status &&& ~~~ namedBits = 0
  /-- The canonical form of the memories. -/
  memWf : s.mem.wf
  /-- No element outside a space is listed. -/
  memSpace : MemInSpace s.build s.mem
  /-- 10_state.md R49. -/
  rows : ∀ b, ∀ row < (s.build.rowsMax : Nat), RowOk s b row
  /-- 40_config.md R124: in CFG mode every count is 0. -/
  cfgEmpty : s.mode = .cfg → s.mem.bank0.cnt = [] ∧ s.mem.bank1.cnt = []
  /-- 20_memory.md R71: "lanes cannot start in CFG mode". -/
  cfgIdle : s.mode = .cfg → s.anyBusy = false
  /-- 10_state.md R40, R41. -/
  lanes : ∀ h, s.busy h = true → LaneOk s h

/-! ### What a command may change -/

/-- The command at port `p` was accepted: the command pointer advanced by 1, the command list and the
other port are as before (10_state.md R54). -/
def Accepted (s t : State) (p : PortId) : Prop :=
  t.port p = { s.port p with cp := (s.port p).cp + 1 } ∧ ∀ r, r ≠ p → t.port r = s.port r

/-- `t` is `s` with the sticky bit of `c` set and the command at port `p` accepted, and nothing else
changed: a command that raises "takes no other effect" (00_scope.md R10; 60_exceptions.md R217). -/
def RaisesOnly (s t : State) (c : Cause) (p : PortId) : Prop :=
  t.err c = true ∧ (∀ n, n ≠ c.bit → t.flag n = s.flag n) ∧ Accepted s t p ∧
  t = { s with status := t.status, portH := t.portH, portS := t.portS }

/-- The command raises `c` and does nothing else. -/
def Raises (i : Instr) (s : State) (c : Cause) : Prop :=
  ∃ t, exec i s = .next t ∧ RaisesOnly s t c i.port

/-! ### Errors, holds and the end of a run -/

/-- No error bit is set (60_exceptions.md R218; 93_implementation_defined.md U2, U3): the premise or
conclusion of every claim about the block's output. -/
abbrev Clean (s : State) : Prop := s.errOut = false

/-- The port presents this command. -/
def Presents (s : State) (p : PortId) (i : Instr) : Prop :=
  ∃ w, s.presented p = some w ∧ decodeOn p w = .ok i

/-- A JOIN is held (43_sync_scanout.md R190, R194): in RUN mode, with a lane running. -/
def JoinHeld (s : State) : Prop := s.mode = .run ∧ Presents s .h .join ∧ s.anyBusy = true

/-- A SWAP is held (43_sync_scanout.md R191, R194): in RUN mode, with a lane running or no notification
pending. -/
def SwapHeld (s : State) : Prop := s.mode = .run ∧ Presents s .h .swap ∧ s.swapReady = false

/-- The command port H presents is held: "Only JOIN and SWAP can be held" (43_sync_scanout.md R194). -/
def Held (s : State) : Prop := JoinHeld s ∨ SwapHeld s

/-- Port S has a VSYNC left to send: one stands at or behind its command pointer
(70_reset_and_hazards.md R246; 10_state.md R54(a)). -/
def State.vsyncLeft (s : State) : Bool :=
  (s.portS.words.drop s.portS.cp).any fun w => decide (decodeOn .s w = .ok .vsync)

/-- The run has ended (70_reset_and_hazards.md R246): both lists accepted to their last word and both
lanes idle. -/
def Ended (s : State) : Prop :=
  s.presented .h = none ∧ s.presented .s = none ∧ s.anyBusy = false

/-- The run is stuck (70_reset_and_hazards.md R246): "a SWAP is held and port S has no VSYNC left to
send, or a JOIN is held (never for ever ...)". Port S may have other words left, and lanes may run. -/
def Stuck (s : State) : Prop := (SwapHeld s ∧ s.vsyncLeft = false) ∨ JoinHeld s

/-- The stuck states that last: a SWAP is held, no notification is pending and none is left to come
(93_implementation_defined.md U8; 43_sync_scanout.md R191: "SWAP is held for ever"). A SWAP held only
for a running lane, or a held JOIN, is lifted by the lanes. -/
def StuckForEver (s : State) : Prop := SwapHeld s ∧ s.vsp = false ∧ s.vsyncLeft = false

/-- How many steps lane `h` will still take (41_mapper.md R149). -/
def State.stepsLeft (s : State) (h : LaneId) : Nat :=
  if s.busy h then
    (s.cfg.halfHi h - (s.lane h).i.toNat) / 4 * (s.cfg.iterCount.toNat + 1) - (s.lane h).j.toNat
  else 0

/-- A weakly fair run (92_eei_decisions.md D46; 70_reset_and_hazards.md R245): "a busy lane eventually
steps", and the agent of a port that always presents a command eventually has a turn. -/
structure WeaklyFair (run : Nat → State) : Prop where
  steps : ∀ n, step (run n) = .next (run (n + 1))
  lanes : ∀ h n, (∀ m, n ≤ m → (run m).busy h = true) → ∃ m, n ≤ m ∧ (run m).currentTurn = .lane h
  ports : ∀ p n, (∀ m, n ≤ m → (run m).presented p ≠ none) →
    ∃ m, n ≤ m ∧ (run m).currentTurn = PortId.turn p

/-! ### Who may do what (60_exceptions.md R223) -/

/-- An entry of the table of 60_exceptions.md R223. -/
inductive Permission where
  | ok
  | state
  | ill
  deriving DecidableEq, Repr

/-- The table of 60_exceptions.md R223, row by row. -/
def permission : Instr → PortId → Mode → Permission
  | .nop, .h, _ => .ok
  | .stat, .h, _ => .ok
  | .cfgw _ _, .h, .cfg => .ok
  | .lutw _ _, .h, .cfg => .ok
  | .capw _ _, .h, .cfg => .ok
  | .lock, .h, .cfg => .ok
  | .cfgw _ _, .h, .run => .state
  | .lutw _ _, .h, .run => .state
  | .capw _ _, .h, .run => .state
  | .lock, .h, .run => .state
  | .clear, .h, .cfg => .state
  | .plot _ _ _, .h, .cfg => .state
  | .gen _ _, .h, .cfg => .state
  | .join, .h, .cfg => .state
  | .swap, .h, .cfg => .state
  | .clear, .h, .run => .ok
  | .plot _ _ _, .h, .run => .ok
  | .gen _ _, .h, .run => .ok
  | .join, .h, .run => .ok
  | .swap, .h, .run => .ok
  | .sline _, .s, _ => .ok
  | .vsync, .s, _ => .ok
  | .sline _, .h, _ => .ill
  | .vsync, .h, _ => .ill
  | _, .s, _ => .ill

/-- The value of configuration register `n` as a 32-bit word, zero-extended (10_state.md R21). No
command reads it; the claims do. -/
def CfgRegs.read (c : CfgRegs) : Nat → BitVec 32
  | 0 => c.log2n.setWidth 32
  | 1 => c.pixelSize.setWidth 32
  | 2 => c.curveCount.setWidth 32
  | 3 => c.iterCount.setWidth 32
  | 4 => c.redShift.setWidth 32
  | 5 => c.idxScale
  | 6 => c.da1
  | 7 => c.da2
  | 8 => c.a1Start0
  | 9 => c.a1Start1
  | 10 => c.a2Start0
  | 11 => c.a2Start1
  | _ => 0

/-! ### Correct rounding (00_scope.md R8) -/

/-- From this many units on, a magnitude rounds to infinity: half a unit in the last place above the
greatest finite value. -/
def overflowUnits : Nat := (2 ^ 25 - 1) * 2 ^ 252

/-- `r` is finite and nearest to `exact * 2^-(149 + d)` among the finite values, and where another is
as near, the fraction of `r` is even (00_scope.md R8). -/
def IsNearest (r : F32) (exact : Int) (d : Nat) : Prop :=
  isFinite r = true ∧ ∀ w : F32, isFinite w = true →
    (units r * 2 ^ d - exact).natAbs ≤ (units w * 2 ^ d - exact).natAbs ∧
    ((units r * 2 ^ d - exact).natAbs = (units w * 2 ^ d - exact).natAbs →
      units w = units r ∨ ffrac r % 2 = 0)

/-- `r` is the exact value `exact * 2^-(149 + d)` "rounded once to the nearest representable value, ties
to the one with an even fraction, overflow to infinity"; `neg` is the sign of the result. -/
def RoundedTo (r : F32) (exact : Int) (d : Nat) (neg : Bool) : Prop :=
  fneg r = neg ∧
  (overflowUnits * 2 ^ d ≤ exact.natAbs → r = finf neg) ∧
  (exact.natAbs < overflowUnits * 2 ^ d → IsNearest r exact d)

/-- `v` is finite and `0 <= v < size` (41_mapper.md R147): -0.0 is inside, a NaN and an infinity are
not. -/
abbrev InsideGrid (size : Nat) (v : F32) : Prop :=
  isFinite v = true ∧ 0 ≤ units v ∧ units v < size * 2 ^ 149

/-- The cell coordinate of a value: `trunc(v)` (41_mapper.md R147; 00_scope.md R8). -/
def truncUnits (v : F32) : Nat := (units v / 2 ^ 149).toNat

/-! ### What the table must hold (41_mapper.md R151, R152) -/

/-- The real number a finite value stands for. -/
def IsRealValue (v : F32) (r : ℝ) : Prop := isFinite v = true ∧ r * 2 ^ 149 = (units v : ℝ)

/-- 41_mapper.md R151(a): `LUT[k]` is the binary32 value nearest to `C + A * sin(2*pi*k/N)` for
`0 <= k < 5N/4`. It binds the host that loads the table; the block checks nothing of it, and no
step of the model depends on it. Log 17. -/
def TableIsSine (s : State) (offset amplitude : ℝ) : Prop :=
  0 < amplitude ∧ ∀ k < 5 * s.cfg.tableSize / 4, ∃ r, IsRealValue (s.lutVal k) r ∧
    ∀ w q, IsRealValue w q →
      |r - (offset + amplitude * Real.sin (2 * Real.pi * k / s.cfg.tableSize))| ≤
        |q - (offset + amplitude * Real.sin (2 * Real.pi * k / s.cfg.tableSize))|

/-- The hypothesis of 41_mapper.md R152, "a condition a host can check on the table it loads". -/
structure TableInBounds (s : State) (lo hi : F32) : Prop where
  finite : ∀ k < 5 * s.cfg.tableSize / 4, isFinite (s.lutVal k) = true
  lower  : ∀ k < 5 * s.cfg.tableSize / 4, fge (s.lutVal k) lo = true
  upper  : ∀ k < 5 * s.cfg.tableSize / 4, fge hi (s.lutVal k) = true
  floor  : fge (fadd lo lo) 0 = true
  ceil   : flt (fadd hi hi) (u2f s.cfg.pixelSize.toNat) = true

end Sys2Proof.Machine
end

