-- ==== Sys2Proof/Certificates/Slice0/Obligations.lean ====
section
/-! DEFINITION. The statements for the provers. Each docstring says which rule of spec/ a statement
formalises; a clause that rests on the model's own choice names the log entry. -/

open Sys2Proof Sys2Proof.Machine

/-! ### Encoding and decoding -/

/-- 30_encoding.md R90, R91, R93: the word of every well-formed command decodes to that command, on the
port of its row. -/
def Obligations.DecodeOfEncodeIsTheCommand : Prop :=
  ∀ i : Instr, i.wellFormed = true →
    decodeOn i.port (encode i) = .ok i ∧ decodeWord (encode i) = .ok i

/-- 30_encoding.md R91, R96: a word that decodes is the encoding of its command, so no bit of a word
that is accepted is ignored; the command is well formed and belongs to the port. -/
def Obligations.EncodeOfDecodeIsTheWord : Prop :=
  ∀ (p : PortId) (w : Word) (i : Instr), decodeOn p w = .ok i →
    encode i = w ∧ i.port = p ∧ i.wellFormed = true

/-- 30_encoding.md R93: "a word w is an instance of the row iff w & mask = match", with the further
constraint of CFGW. -/
def Obligations.LegalWordsAreTheTableRows : Prop :=
  ∀ (p : PortId) (w : Word), (∃ i, decodeOn p w = .ok i) ↔
    ∃ r ∈ opcodeMap, r.port = p ∧ w &&& r.mask = r.pattern ∧
      (r.op = 0x01 → ((argA w).extractLsb' 0 4).toNat ≤ 11)

/-- 30_encoding.md R102: worked encodings decode to their commands. -/
def Obligations.WorkedEncodingsDecode : Prop :=
  decodeOn .h 0x0100000100000010 = .ok (.cfgw 1 16) ∧
  decodeOn .h 0x020000033F800000 = .ok (.lutw 3 0x3F800000) ∧
  decodeOn .h 0x0300000300000002 = .ok (.capw 3 2) ∧
  decodeOn .h 0x1100000000030170 = .ok (.plot 3 5 0x30) ∧
  decodeOn .h 0x120000013F000000 = .ok (.gen .lane1 0x3F000000) ∧
  decodeOn .h 0x1400000000000000 = .ok .swap ∧
  decodeOn .s 0x3000000300000000 = .ok (.sline 3) ∧
  decodeOn .s 0x3100000000000000 = .ok .vsync

/-- 20_memory.md R62: the least significant byte comes first; byte `k` of a command word is bits
`8k+7 .. 8k`, and the eight bytes of a command decode to it whatever follows them. -/
def Obligations.SerialisedCommandsAreLittleEndian : Prop :=
  (∀ (w : Word), ∀ k < 8, (toBytes 8 w)[k]? = some (w.extractLsb' (8 * k) 8)) ∧
  ∀ (i : Instr) (rest : List Byte), i.wellFormed = true →
    decodeBytes (toBytes 8 (encode i) ++ rest) = .ok (i, rest)

/-! ### What a step does -/

/-- A step at a port whose word decodes runs exactly that command, on the state with the turn used
up; using up a turn changes only the model's own turn fields (log 4). -/
def Obligations.StepRunsTheDecodedCommand : Prop :=
  ∀ (s : State) (p : PortId) (w : Word) (i : Instr),
    s.currentTurn = p.turn → s.presented p = some w → decodeOn p w = .ok i →
    step s = exec i s.passTurn ∧
    s.passTurn = { s with turns := s.turns.tail,
                          ticks := if s.turns = [] then s.ticks + 1 else s.ticks }

/-- 41_mapper.md R142: a lane's turn is its lane step. 70_reset_and_hazards.md R240: the reset pin applies
reset; that it is a turn is log 7. The model's own choice (log 6, on the turns of log 4): the turn of an
idle lane, or of a port with no word presented, answers a next state, the one with that turn used up. -/
def Obligations.OtherTurnsAreLaneStepsIdleOrReset : Prop :=
  ∀ s : State,
    (∀ h, s.currentTurn = .lane h → step s = laneStep h s.passTurn) ∧
    (∀ h, s.currentTurn = .lane h → s.busy h = false → step s = .next s.passTurn) ∧
    (∀ p, s.currentTurn = PortId.turn p → s.presented p = none → step s = .next s.passTurn) ∧
    (s.currentTurn = .resetPin → step s = .next s.passTurn.applyReset)

/-- 30_encoding.md R95, R96: a reserved opcode, the wrong port, a 1 in a reserved bit, or a CFGW with
reg in 12 .. 15, is accepted, raises ILL and has no other effect. -/
def Obligations.IllegalWordOnlyRaisesIll : Prop :=
  ∀ (s : State) (p : PortId) (w : Word),
    s.currentTurn = p.turn → s.presented p = some w →
    ((∀ r ∈ opcodeMap, r.op = opOf w → r.port ≠ p) ∨
     (∃ r ∈ opcodeMap, r.op = opOf w ∧ r.port = p ∧ w &&& r.mask ≠ r.pattern) ∨
     (p = .h ∧ opOf w = 0x01 ∧ 12 ≤ ((argA w).extractLsb' 0 4).toNat)) →
    ∃ t, step s = .next t ∧ RaisesOnly s.passTurn t .ill p

/-- 60_exceptions.md R223: the table of which command is allowed where. Where the table says "ok" the
mode test passes: STATE is then raised only by GEN on a busy lane and CLEAR with a busy lane. -/
def Obligations.PermissionTableHolds : Prop :=
  ∀ (s : State) (p : PortId) (w : Word) (i : Instr),
    s.currentTurn = p.turn → s.presented p = some w → decodeWord w = .ok i →
    match permission i p s.mode with
    | .ill => ∃ t, step s = .next t ∧ RaisesOnly s.passTurn t .ill p
    | .state => ∃ t, step s = .next t ∧ RaisesOnly s.passTurn t .state p
    | .ok => step s = exec i s.passTurn ∧ ∀ t, step s = .next t → t.err .state = true →
        s.err .state = true ∨ (∃ h time, i = .gen h time ∧ s.busy h = true) ∨
          (i = .clear ∧ s.anyBusy = true)

/-! ### Configuration and status commands -/

/-- 40_config.md R121: NOP is accepted and leaves every piece of the block's state unchanged. -/
def Obligations.NopOnlyAdvancesThePort : Prop :=
  ∀ s : State, ∃ t, exec .nop s = .next t ∧ Accepted s t .h ∧ t = { s with portH := t.portH }

/-- 40_config.md R122: in CFG mode a CFGW of a legal value writes its register with the whole value
and touches nothing else. -/
def Obligations.CfgwWritesItsRegister : Prop :=
  ∀ (s : State) (reg : BitVec 4) (value : BitVec 32),
    s.mode = .cfg → reg.toNat ≤ 11 → legalCfg s.build reg value = true →
    ∃ t, exec (.cfgw reg value) s = .next t ∧
      t.cfg.read reg.toNat = value ∧ (∀ n, n ≠ reg.toNat → t.cfg.read n = s.cfg.read n) ∧
      Accepted s t .h ∧ t = { s with cfg := t.cfg, portH := t.portH }

/-- 40_config.md R122, 30_encoding.md R97: the errors of CFGW, in the order of the tests, and the
legal set of each register written out; numbers 5 to 11 take any pattern. -/
def Obligations.CfgwLegalSetsAndRefusals : Prop :=
  (∀ (s : State) (reg : BitVec 4) (value : BitVec 32),
    (12 ≤ reg.toNat → Raises (.cfgw reg value) s .ill) ∧
    (reg.toNat ≤ 11 → s.mode = .run → Raises (.cfgw reg value) s .state) ∧
    (reg.toNat ≤ 11 → s.mode = .cfg → legalCfg s.build reg value = false →
      Raises (.cfgw reg value) s .range)) ∧
  ∀ (b : Build) (v : BitVec 32),
    (legalCfg b 0 v = true ↔ 2 ≤ v.toNat ∧ v.toNat ≤ b.log2nMax) ∧
    (legalCfg b 1 v = true ↔ 1 ≤ v.toNat ∧ v.toNat ≤ b.rowsMax) ∧
    (legalCfg b 2 v = true ↔ v.toNat ≤ 65528 ∧ v.extractLsb' 0 3 = 0) ∧
    (legalCfg b 3 v = true ↔ v.toNat ≤ 512) ∧
    (legalCfg b 4 v = true ↔ v.toNat ≤ 14) ∧
    (∀ reg : BitVec 4, 5 ≤ reg.toNat → reg.toNat ≤ 11 → legalCfg b reg v = true)

/-- 40_config.md R123: in CFG mode a LUTW inside the physical depth writes its element and no
other. -/
def Obligations.LutwWritesItsElement : Prop :=
  ∀ (s : State) (idx : BitVec 17) (value : F32),
    s.mode = .cfg → idx.toNat < s.build.lutDepth →
    ∃ t, exec (.lutw idx value) s = .next t ∧
      t.lutVal idx.toNat = value ∧ (∀ k, k ≠ idx.toNat → t.lutVal k = s.lutVal k) ∧
      Accepted s t .h ∧
      t = { s with mem := { s.mem with lut := t.mem.lut }, portH := t.portH }

/-- 40_config.md R124: in CFG mode a CAPW inside the space writes its row's capacity and no other. -/
def Obligations.CapwWritesItsCapacity : Prop :=
  ∀ (s : State) (row : BitVec 10) (cap : BitVec 11),
    s.mode = .cfg → row.toNat < s.build.rowsMax → cap.toNat ≤ s.build.capMax →
    ∃ t, exec (.capw row cap) s = .next t ∧
      t.capVal row.toNat = cap ∧ (∀ r, r ≠ row.toNat → t.capVal r = s.capVal r) ∧
      Accepted s t .h ∧
      t = { s with mem := { s.mem with cap := t.mem.cap }, portH := t.portH }

/-- 40_config.md R123, R124: the errors of LUTW and CAPW; the mode test comes before the range
test. -/
def Obligations.LutwAndCapwRefusals : Prop :=
  ∀ (s : State) (idx : BitVec 17) (value : F32) (row : BitVec 10) (cap : BitVec 11),
    (s.mode = .run → Raises (.lutw idx value) s .state ∧ Raises (.capw row cap) s .state) ∧
    (s.mode = .cfg → s.build.lutDepth ≤ idx.toNat → Raises (.lutw idx value) s .range) ∧
    (s.mode = .cfg → (s.build.rowsMax : Nat) ≤ row.toNat ∨ (s.build.capMax : Nat) < cap.toNat →
      Raises (.capw row cap) s .range)

/-- 40_config.md R125: in CFG mode LOCK sets MODE and nothing else; in RUN mode it raises STATE. -/
def Obligations.LockEntersRunMode : Prop :=
  ∀ s : State,
    (s.mode = .cfg → ∃ t, exec .lock s = .next t ∧ t.mode = .run ∧
      (∀ n, n ≠ 0 → t.flag n = s.flag n) ∧ Accepted s t .h ∧
      t = { s with status := t.status, portH := t.portH }) ∧
    (s.mode = .run → Raises .lock s .state)

/-- 40_config.md R126: STAT responds the one word STATUS on port H, in either mode, and changes
nothing else. -/
def Obligations.StatRespondsStatus : Prop :=
  ∀ s : State, ∃ t, exec .stat s = .next t ∧ t.respH = s.respH ++ [s.status] ∧
    Accepted s t .h ∧ t = { s with respH := t.respH, portH := t.portH }

/-- 10_state.md R31: the layout of STATUS, every reserved bit 0. -/
def Obligations.StatusWordLayout : Prop :=
  ∀ s : State, Inv s →
    s.status.toNat = (if s.mode = .run then 1 else 0) + 2 * s.writeBank.number +
      4 * s.vsp.toNat + 16 * (s.busy .lane0).toNat + 32 * (s.busy .lane1).toNat +
      256 * (s.err .ill).toNat + 512 * (s.err .state).toNat + 1024 * (s.err .range).toNat +
      2048 * (s.err .num).toNat

/-! ### The slot accumulator -/

/-- 42_slots.md R171: the order of Plot's tests. A full row drops the sample whatever its x; else the
least entry with that x is overwritten; else the sample is appended at index CNT. -/
def Obligations.PlotChoosesItsAction : Prop :=
  ∀ (s : State) (row : Nat) (x : BitVec 10),
    ((s.capVal row).toNat ≤ (s.cntVal s.writeBank row).toNat → s.plotActionAt row x = .drop) ∧
    ((s.cntVal s.writeBank row).toNat < (s.capVal row).toNat →
      (∀ k < (s.cntVal s.writeBank row).toNat, entryX (s.slotVal s.writeBank row k) = x →
        (∀ k' < k, entryX (s.slotVal s.writeBank row k') ≠ x) →
        s.plotActionAt row x = .overwrite k) ∧
      ((∀ k < (s.cntVal s.writeBank row).toNat, entryX (s.slotVal s.writeBank row k) ≠ x) →
        s.plotActionAt row x = .append (s.cntVal s.writeBank row).toNat))

/-- 42_slots.md R171, R172: a PLOT whose action is to append writes one new entry of the write bank's
row and counts it; every other element of every memory is as before. -/
def Obligations.PlotAppendsANewEntry : Prop :=
  ∀ (s : State) (row x : BitVec 10) (c : Colour) (k : Nat),
    Inv s → s.mode = .run → row.toNat < s.cfg.pixelSize.toNat → x.toNat < s.cfg.pixelSize.toNat →
    s.plotActionAt row.toNat x = .append k →
    ∃ t, exec (.plot row x c) s = .next t ∧
      t.slotVal s.writeBank row.toNat k = packEntry x c ∧
      (∀ r l, l < s.build.capMax → (r ≠ row.toNat ∨ l ≠ k) →
        t.slotVal s.writeBank r l = s.slotVal s.writeBank r l) ∧
      (t.cntVal s.writeBank row.toNat).toNat = (s.cntVal s.writeBank row.toNat).toNat + 1 ∧
      (∀ r, r ≠ row.toNat → t.cntVal s.writeBank r = s.cntVal s.writeBank r) ∧
      t.mem.bank s.displayBank = s.mem.bank s.displayBank ∧
      t.mem.lut = s.mem.lut ∧ t.mem.cap = s.mem.cap ∧
      Accepted s t .h ∧ t = { s with mem := t.mem, portH := t.portH }

/-- 42_slots.md R171, R172: a PLOT whose action is to overwrite replaces that one entry, the count
unchanged; every other element of every memory is as before. -/
def Obligations.PlotOverwritesInPlace : Prop :=
  ∀ (s : State) (row x : BitVec 10) (c : Colour) (k : Nat),
    Inv s → s.mode = .run → row.toNat < s.cfg.pixelSize.toNat → x.toNat < s.cfg.pixelSize.toNat →
    s.plotActionAt row.toNat x = .overwrite k →
    ∃ t, exec (.plot row x c) s = .next t ∧
      t.slotVal s.writeBank row.toNat k = packEntry x c ∧
      (∀ r l, l < s.build.capMax → (r ≠ row.toNat ∨ l ≠ k) →
        t.slotVal s.writeBank r l = s.slotVal s.writeBank r l) ∧
      (∀ r, t.cntVal s.writeBank r = s.cntVal s.writeBank r) ∧
      t.mem.bank s.displayBank = s.mem.bank s.displayBank ∧
      t.mem.lut = s.mem.lut ∧ t.mem.cap = s.mem.cap ∧
      Accepted s t .h ∧ t = { s with mem := t.mem, portH := t.portH }

/-- 42_slots.md R171, R174(e), R175: a PLOT to a full row is accepted, drops the sample, even one
whose x is present, and raises nothing. -/
def Obligations.PlotToAFullRowIsDropped : Prop :=
  ∀ (s : State) (row x : BitVec 10) (c : Colour),
    s.mode = .run → row.toNat < s.cfg.pixelSize.toNat → x.toNat < s.cfg.pixelSize.toNat →
    s.cfg.pixelSize.toNat ≤ s.build.rowsMax →
    (s.capVal row.toNat).toNat ≤ (s.cntVal s.writeBank row.toNat).toNat →
    ∃ t, exec (.plot row x c) s = .next t ∧ Accepted s t .h ∧ t = { s with portH := t.portH }

/-- 42_slots.md R173: CLEAR makes every count of the write bank 0 and touches nothing else: slot
contents, capacities and the display bank stay. -/
def Obligations.ClearEmptiesTheWriteBank : Prop :=
  ∀ s : State, s.mode = .run → s.anyBusy = false →
    ∃ t, exec .clear s = .next t ∧
      (∀ r < (s.build.rowsMax : Nat), t.cntVal s.writeBank r = 0) ∧
      (∀ r, (s.build.rowsMax : Nat) ≤ r → t.cntVal s.writeBank r = s.cntVal s.writeBank r) ∧
      (t.mem.bank s.writeBank).slot = (s.mem.bank s.writeBank).slot ∧
      t.mem.bank s.displayBank = s.mem.bank s.displayBank ∧
      t.mem.lut = s.mem.lut ∧ t.mem.cap = s.mem.cap ∧
      Accepted s t .h ∧ t = { s with mem := t.mem, portH := t.portH }

/-- 60_exceptions.md R213, R214: when CLEAR, PLOT and GEN raise instead: in CFG mode, on a busy lane,
outside the grid. Nothing is cleared, nothing is written and the running lane is not disturbed. -/
def Obligations.RunCommandRefusals : Prop :=
  ∀ (s : State) (row x : BitVec 10) (c : Colour) (h : LaneId) (time : F32),
    (s.mode = .cfg → Raises .clear s .state ∧ Raises (.plot row x c) s .state ∧
      Raises (.gen h time) s .state ∧ Raises .join s .state ∧ Raises .swap s .state) ∧
    (s.mode = .run → s.anyBusy = true → Raises .clear s .state) ∧
    (s.mode = .run → s.busy h = true → Raises (.gen h time) s .state) ∧
    (s.mode = .run → s.cfg.pixelSize.toNat ≤ row.toNat ∨ s.cfg.pixelSize.toNat ≤ x.toNat →
      Raises (.plot row x c) s .range)

/-- 10_state.md R47: the slot entry format. -/
def Obligations.EntryFieldsRoundTrip : Prop :=
  (∀ (x : BitVec 10) (c : Colour), entryX (packEntry x c) = x ∧ entryColour (packEntry x c) = c ∧
    (packEntry x c).toNat = x.toNat * 64 + c.toNat) ∧
  ∀ e : Entry, packEntry (entryX e) (entryColour e) = e

/-- 42_slots.md R174(b), (c), (e): until the write bank is cleared, a count only grows, by 1 per
append; an entry keeps its index and its x; a full row does not change. -/
def Obligations.RowsOnlyGrowUntilCleared : Prop :=
  ∀ s t : State, Inv s → step s = .next t → s.currentTurn ≠ .resetPin →
    ¬ (s.currentTurn = .host ∧ Presents s .h .clear) →
    ∀ row < (s.build.rowsMax : Nat),
      (t.cntVal s.writeBank row = s.cntVal s.writeBank row ∨
        (t.cntVal s.writeBank row).toNat = (s.cntVal s.writeBank row).toNat + 1) ∧
      (∀ k < (s.cntVal s.writeBank row).toNat,
        entryX (t.slotVal s.writeBank row k) = entryX (s.slotVal s.writeBank row k)) ∧
      ((s.capVal row).toNat ≤ (s.cntVal s.writeBank row).toNat →
        t.rowEntries s.writeBank row = s.rowEntries s.writeBank row)

/-! ### The trigonometric mapper -/

/-- 41_mapper.md R141: GEN on an idle lane in RUN mode writes its six registers and its BUSY bit, and
nothing else. 10_state.md R30: CENTRE is exactly PIXEL_SIZE/2 for every legal PIXEL_SIZE, and the halves
split CURVE_COUNT in two. -/
def Obligations.GenStartsTheLane : Prop :=
  (∀ (s : State) (h : LaneId) (time : F32), s.mode = .run → s.busy h = false →
    ∃ t, exec (.gen h time) s = .next t ∧
      (t.lane h).a1 = fadd time (s.cfg.a1Start h) ∧ (t.lane h).a2 = fadd time (s.cfg.a2Start h) ∧
      (t.lane h).i.toNat = s.cfg.halfLo h ∧ (t.lane h).j = 0 ∧
      (t.lane h).x = s.cfg.centre ∧ (t.lane h).y = s.cfg.centre ∧
      t.busy h = decide (s.cfg.halfLo h < s.cfg.halfHi h) ∧
      (∀ g, g ≠ h → t.lane g = s.lane g) ∧ (∀ n, n ≠ busyBit h → t.flag n = s.flag n) ∧
      Accepted s t .h ∧
      t = { s with lane0 := t.lane0, lane1 := t.lane1, status := t.status, portH := t.portH }) ∧
  ∀ c : CfgRegs,
    (1 ≤ c.pixelSize.toNat → c.pixelSize.toNat ≤ 1024 →
      isFinite c.centre = true ∧ 2 * units c.centre = c.pixelSize.toNat * 2 ^ 149) ∧
    c.halfLo .lane0 = 0 ∧ c.halfHi .lane0 = c.curveCount.toNat / 2 ∧
    c.halfLo .lane1 = c.curveCount.toNat / 2 ∧ c.halfHi .lane1 = c.curveCount.toNat ∧
    c.a1Start .lane0 = c.read 8 ∧ c.a1Start .lane1 = c.read 9 ∧
    c.a2Start .lane0 = c.read 10 ∧ c.a2Start .lane1 = c.read 11

/-- 41_mapper.md R143, R145, R147: the iteration step. Both new coordinates come from the old ones;
NUM is raised if a conversion overflowed; the sample is in the grid iff both coordinates are finite with
0 <= value < PIXEL_SIZE, and is then plotted at row trunc(y'), column trunc(x'), exactly as a PLOT of
that cell (42_slots.md R172) would; otherwise RANGE is raised. Only this lane's x, y, j, the two bits and
the plotted row can change. -/
def Obligations.IterationStepComputesOneSample : Prop :=
  ∀ (s : State) (h : LaneId) (ia ib : Nat) (oa ob : Bool) (p : Sample),
    Inv s → s.busy h = true → (s.lane h).j.toNat < s.cfg.iterCount.toNat →
    s.cfg.index (s.lane h).a1 (s.lane h).x = (ia, oa) →
    s.cfg.index (s.lane h).a2 (s.lane h).y = (ib, ob) →
    p = { x := fadd (s.lutVal ia) (s.lutVal ib)
          y := fadd (s.lutVal (ia + s.cfg.tableSize / 4)) (s.lutVal (ib + s.cfg.tableSize / 4))
          c := s.cfg.colour (s.lane h).i (s.lane h).j } →
    (s.cfg.inGrid p = true ↔
      InsideGrid s.cfg.pixelSize.toNat p.x ∧ InsideGrid s.cfg.pixelSize.toNat p.y) ∧
    ∃ t, laneStep h s = .next t ∧
      t.lane h = { s.lane h with x := p.x, y := p.y, j := (s.lane h).j + 1 } ∧
      (∀ g, g ≠ h → t.lane g = s.lane g) ∧
      t.err .num = (s.err .num || oa || ob) ∧ t.err .range = (s.err .range || !s.cfg.inGrid p) ∧
      (∀ n, n ≠ Cause.num.bit → n ≠ Cause.range.bit → t.flag n = s.flag n) ∧
      (s.cfg.inGrid p = false → t.mem = s.mem) ∧
      (s.cfg.inGrid p = true →
        truncUnits p.y < s.cfg.pixelSize.toNat ∧ truncUnits p.x < s.cfg.pixelSize.toNat ∧
        (∃ u, s.plot (truncUnits p.y) (BitVec.ofNat 10 (truncUnits p.x)) p.c = .ok u ∧
          t.mem = u.mem) ∧
        ∃ u, exec (.plot (BitVec.ofNat 10 (truncUnits p.y)) (BitVec.ofNat 10 (truncUnits p.x)) p.c) s =
          .next u ∧ t.mem = u.mem) ∧
      t = { s with lane0 := t.lane0, lane1 := t.lane1, status := t.status, mem := t.mem }

/-- 41_mapper.md R148: the end-of-curve step. That the BUSY test reads `i` as at the start of the step is
the model's reading of R148 with 00_scope.md R7 (log 16). -/
def Obligations.EndOfCurveStepAdvances : Prop :=
  ∀ (s : State) (h : LaneId), s.busy h = true → (s.lane h).j.toNat = s.cfg.iterCount.toNat →
    ∃ t, laneStep h s = .next t ∧
      t.lane h = { x := s.cfg.centre, y := s.cfg.centre, a1 := fadd (s.lane h).a1 s.cfg.da1,
                   a2 := fadd (s.lane h).a2 s.cfg.da2, i := (s.lane h).i + 4, j := 0 } ∧
      (∀ g, g ≠ h → t.lane g = s.lane g) ∧
      t.busy h = decide ((s.lane h).i.toNat + 4 < s.cfg.halfHi h) ∧
      (∀ n, n ≠ busyBit h → t.flag n = s.flag n) ∧
      t = { s with lane0 := t.lane0, lane1 := t.lane1, status := t.status }

/-- 41_mapper.md R146: red is two bits of the curve index, green the top two bits of the 9-bit
iteration counter, blue `(7 - (red + green)) >> 1`, each in its field of 10_state.md R48. -/
def Obligations.ColourChannels : Prop :=
  ∀ (c : CfgRegs) (i : BitVec 16) (j : BitVec 10),
    (colourRed (c.colour i j)).toNat = i.toNat / 2 ^ c.redShift.toNat % 4 ∧
    (colourGreen (c.colour i j)).toNat = j.toNat / 128 % 4 ∧
    (colourBlue (c.colour i j)).toNat =
      (7 - (i.toNat / 2 ^ c.redShift.toNat % 4 + j.toNat / 128 % 4)) / 2

/-- 20_memory.md R64, 41_mapper.md R144: a lane's table indices are always in range, the quarter-period
read included. With `q = fmul(fadd(a, p), IDX_SCALE)`: where the conversion does not overflow, the index is
`trunc(q)` modulo N (so -1 gives N-1) and the overflow bit is 0; where it overflows, the index is 0 for a
NaN, N-1 for positive saturation and 0 for negative saturation, each with the overflow bit. -/
def Obligations.TableIndicesStayInRange : Prop :=
  ∀ (c : CfgRegs) (a p : F32), 2 ≤ c.log2n.toNat → c.log2n.toNat ≤ 16 →
    ((c.index a p).1 ≤ c.tableSize - 1 ∧
      (c.index a p).1 + c.tableSize / 4 ≤ 5 * c.tableSize / 4 - 1 ∧
      5 * c.tableSize / 4 ≤ Build.default.lutDepth) ∧
    c.tableSize = 2 ^ c.log2n.toNat ∧
    (fge (fmul (fadd a p) c.idxScale) 0xCF000000 = true →
      flt (fmul (fadd a p) c.idxScale) 0x4F000000 = true →
      c.index a p = ((Int.tdiv (units (fmul (fadd a p) c.idxScale)) (2 ^ 149) %
        (2 ^ c.log2n.toNat : Int)).toNat, false)) ∧
    (isNaN (fmul (fadd a p) c.idxScale) = true → c.index a p = (0, true)) ∧
    (fge (fmul (fadd a p) c.idxScale) 0x4F000000 = true →
      c.index a p = (c.tableSize - 1, true)) ∧
    (flt (fmul (fadd a p) c.idxScale) 0xCF000000 = true → c.index a p = (0, true))

/-- 41_mapper.md R152: a table within bounds that a host can check makes no iteration step raise
RANGE, whatever the angles, the time and the scale are. -/
def Obligations.BoundedTableNeverRaisesRange : Prop :=
  ∀ (s t : State) (h : LaneId) (lo hi : F32), Inv s → TableInBounds s lo hi →
    s.busy h = true → (s.lane h).j.toNat < s.cfg.iterCount.toNat →
    laneStep h s = .next t → t.err .range = s.err .range

/-- 41_mapper.md R149: GEN on an idle lane leaves exactly (CURVE_COUNT/8) * (ITER_COUNT + 1) steps, each
step of a running lane uses up exactly one, the lane is idle exactly when none is left, and its last
step leaves the registers the rule names. -/
def Obligations.LaneStepCountIsExact : Prop :=
  (∀ (s t : State) (h : LaneId) (time : F32), Inv s → s.mode = .run → s.busy h = false →
    exec (.gen h time) s = .next t →
    t.stepsLeft h = s.cfg.curveCount.toNat / 8 * (s.cfg.iterCount.toNat + 1)) ∧
  (∀ (s t : State) (h : LaneId), Inv s → s.busy h = true → laneStep h s = .next t →
    t.stepsLeft h + 1 = s.stepsLeft h) ∧
  (∀ (s : State) (h : LaneId), Inv s → (s.busy h = false ↔ s.stepsLeft h = 0)) ∧
  (∀ (s t : State) (h : LaneId), Inv s → s.busy h = true → laneStep h s = .next t →
    t.busy h = false →
    (t.lane h).i.toNat = s.cfg.halfHi h ∧ (t.lane h).j = 0 ∧
    (t.lane h).x = s.cfg.centre ∧ (t.lane h).y = s.cfg.centre ∧
    (t.lane h).a1 = fadd (s.lane h).a1 s.cfg.da1 ∧ (t.lane h).a2 = fadd (s.lane h).a2 s.cfg.da2)

/-- 41_mapper.md R150: a lane's sample and registers after its step are a function of the configuration,
the table and its own registers alone; banks, errors, ports and the other lane cannot change them. -/
def Obligations.LaneStepIgnoresOtherAgents : Prop :=
  ∀ (s u s' u' : State) (h : LaneId),
    u.build = s.build → u.cfg = s.cfg → u.mem.lut = s.mem.lut → u.epoch = s.epoch →
    u.lane h = s.lane h → u.busy h = s.busy h →
    u.laneSample h = s.laneSample h ∧
    (laneStep h s = .next s' → laneStep h u = .next u' →
      u'.lane h = s'.lane h ∧ u'.busy h = s'.busy h)

/-! ### Binary32 arithmetic (00_scope.md R8) -/

/-- 00_scope.md R8: the sum of two finite values is the exact sum rounded once to nearest, ties to
even, overflow to infinity; an exact zero is -0 only from two negative zeros (log 12). -/
def Obligations.FaddIsCorrectlyRounded : Prop :=
  ∀ a b : F32, isFinite a = true → isFinite b = true →
    RoundedTo (fadd a b) (units a + units b) 0
      (if units a + units b = 0 then fneg a && fneg b else decide (units a + units b < 0))

/-- 00_scope.md R8: the product of two finite values is the exact product rounded once to nearest,
ties to even, overflow to infinity. -/
def Obligations.FmulIsCorrectlyRounded : Prop :=
  ∀ a b : F32, isFinite a = true → isFinite b = true →
    RoundedTo (fmul a b) (units a * units b) 149 (fneg a != fneg b)

/-- 00_scope.md R8: a NaN operand gives the canonical quiet NaN, as does every NaN result. The clauses
on infinities (added to an infinity or to a finite value, multiplied by a zero, a non-zero finite value or
an infinity) are IEEE 754's, which R8 names and does not write out: the model's choice, log 12. -/
def Obligations.NonFiniteSumsAndProducts : Prop :=
  (∀ a b : F32, isNaN a = true ∨ isNaN b = true → fadd a b = qnan ∧ fmul a b = qnan) ∧
  (∀ n : Bool, fadd (finf n) (finf (!n)) = qnan ∧ fadd (finf n) (finf n) = finf n) ∧
  (∀ m n : Bool, fmul (finf m) (finf n) = finf (m != n)) ∧
  (∀ (n : Bool) (b : F32), isFinite b = true →
    fadd (finf n) b = finf n ∧ fadd b (finf n) = finf n ∧
    (units b = 0 → fmul (finf n) b = qnan ∧ fmul b (finf n) = qnan) ∧
    (units b ≠ 0 → fmul (finf n) b = finf (n != fneg b) ∧ fmul b (finf n) = finf (n != fneg b)))

/-- 00_scope.md R8: `f2i`: NaN, the two saturations, and truncation toward zero in between. -/
def Obligations.F2iTruncatesAndSaturates : Prop :=
  ∀ v : F32,
    (isNaN v = true → f2i v = (0, true)) ∧
    (fge v 0x4F000000 = true → f2i v = (BitVec.ofInt 32 (2 ^ 31 - 1), true)) ∧
    (flt v 0xCF000000 = true → f2i v = (BitVec.ofInt 32 (- 2 ^ 31), true)) ∧
    (fge v 0xCF000000 = true → flt v 0x4F000000 = true →
      f2i v = (BitVec.ofInt 32 (Int.tdiv (units v) (2 ^ 149)), false))

/-- 00_scope.md R8: `flt` and `fge` compare values; -0 and +0 compare equal; a NaN fails both; every
finite value lies strictly between the infinities, and an infinity equals itself. -/
def Obligations.ComparisonsFollowTheValues : Prop :=
  (∀ a b : F32, isFinite a = true → isFinite b = true →
    (flt a b = true ↔ units a < units b) ∧ (fge a b = true ↔ units b ≤ units a)) ∧
  (∀ a b : F32, isNaN a = true ∨ isNaN b = true → flt a b = false ∧ fge a b = false) ∧
  (∀ (n : Bool) (a : F32), isFinite a = true →
    flt a (finf n) = (!n) ∧ flt (finf n) a = n ∧ fge a (finf n) = n ∧ fge (finf n) a = (!n)) ∧
  (∀ m n : Bool, flt (finf m) (finf n) = (m && !n) ∧ fge (finf m) (finf n) = (!m || n))

/-! ### Synchronisation and scan-out -/

/-- 43_sync_scanout.md R190: JOIN with both lanes idle is accepted and changes nothing; with a lane
running it is held: the state is unchanged and the port presents it again. -/
def Obligations.JoinWaitsForBothLanes : Prop :=
  ∀ s : State, s.mode = .run →
    (s.busy .lane0 = false → s.busy .lane1 = false →
      ∃ t, exec .join s = .next t ∧ Accepted s t .h ∧ t = { s with portH := t.portH }) ∧
    (s.busy .lane0 = true ∨ s.busy .lane1 = true → exec .join s = .next s)

/-- 43_sync_scanout.md R191: SWAP with both lanes idle and VSP = 1 exchanges the banks' roles and
consumes the notification, and moves and clears no data; otherwise it is held. -/
def Obligations.SwapExchangesTheBanks : Prop :=
  ∀ s : State, s.mode = .run →
    (s.busy .lane0 = false → s.busy .lane1 = false → s.vsp = true →
      ∃ t, exec .swap s = .next t ∧ t.writeBank = s.displayBank ∧ t.displayBank = s.writeBank ∧
        t.vsp = false ∧ (∀ n, n ≠ 1 → n ≠ 2 → t.flag n = s.flag n) ∧ Accepted s t .h ∧
        t = { s with status := t.status, portH := t.portH }) ∧
    (s.busy .lane0 = true ∨ s.busy .lane1 = true ∨ s.vsp = false → exec .swap s = .next s)

/-- 43_sync_scanout.md R192: VSYNC sets the binary latch VSP, in either mode, and nothing else. -/
def Obligations.VsyncSetsTheLatch : Prop :=
  ∀ s : State, ∃ t, exec .vsync s = .next t ∧ t.vsp = true ∧
    (∀ n, n ≠ 2 → t.flag n = s.flag n) ∧ Accepted s t .s ∧
    t = { s with status := t.status, portS := t.portS }

/-- 43_sync_scanout.md R193, 30_encoding.md R99: SLINE of a row in the grid responds the count word and
then the display bank's valid entries in index order, and changes nothing else; of a row outside the
grid it raises RANGE and responds the single count word 0. -/
def Obligations.SlineRespondsTheDisplayRow : Prop :=
  ∀ (s : State) (row : BitVec 10), Inv s →
    (row.toNat < s.cfg.pixelSize.toNat →
      ∃ t, exec (.sline row) s = .next t ∧
        t.respS = s.respS ++ ((s.cntVal s.displayBank row.toNat).setWidth 16 ::
          (List.range (s.cntVal s.displayBank row.toNat).toNat).map
            (s.slotVal s.displayBank row.toNat)) ∧
        Accepted s t .s ∧ t = { s with respS := t.respS, portS := t.portS }) ∧
    (s.cfg.pixelSize.toNat ≤ row.toNat →
      ∃ t, exec (.sline row) s = .next t ∧ t.respS = s.respS ++ [0] ∧ t.err .range = true ∧
        (∀ n, n ≠ Cause.range.bit → t.flag n = s.flag n) ∧ Accepted s t .s ∧
        t = { s with respS := t.respS, status := t.status, portS := t.portS })

/-! ### Reset -/

/-- 10_state.md R53: the values the spec gives for reset. -/
def Obligations.ResetValues : Prop :=
  State.reset.cfg.read 0 = 2 ∧ State.reset.cfg.read 1 = 1 ∧
  (∀ n, 2 ≤ n → State.reset.cfg.read n = 0) ∧
  State.reset.status = 0 ∧ State.reset.mode = .cfg ∧ State.reset.writeBank = .bank0 ∧
  (∀ r, State.reset.capVal r = 0) ∧ (∀ b r, State.reset.cntVal b r = 0) ∧
  State.reset.respH = [] ∧ State.reset.respS = []

/-- 70_reset_and_hazards.md R240: the reset pin gives every piece of state with a reset value that
value, whatever the block was doing, and discards what the ports present; that the rest of the command
lists stays is log 7. -/
def Obligations.ResetPinResets : Prop :=
  ∀ s : State, s.currentTurn = .resetPin →
    ∃ t, step s = .next t ∧ t.cfg = State.reset.cfg ∧ t.status = 0 ∧
      (∀ r, t.capVal r = 0) ∧ (∀ b r, t.cntVal b r = 0) ∧ t.respH = [] ∧ t.respS = [] ∧
      t.build = s.build ∧
      ∀ p, (t.port p).words = (s.port p).words ∧
        (s.presented p ≠ none → (t.port p).cp = (s.port p).cp + 1) ∧
        (s.presented p = none → (t.port p).cp = (s.port p).cp)

/-! ### The whole machine -/

/-- The invariant of Safety.lean (10_state.md R21, R31, R40, R41, R49 among it) holds at reset. -/
def Obligations.InvariantHoldsAtReset : Prop := Inv State.reset

/-- 10_state.md R49 ("true after reset and kept by every rule"), R21, R31, R40, R41: every step, of any
agent and of the reset pin, keeps the invariant. -/
def Obligations.EveryStepKeepsTheInvariant : Prop :=
  ∀ s t : State, Inv s → step s = .next t → Inv t

/-- 00_scope.md R9 ("An index outside the space never reaches a memory primitive"), 60_exceptions.md
R210 ("The block keeps running and keeps accepting commands"): from a state that meets the invariant no
step stops with a fault or a refusal. -/
def Obligations.NoStepEverStops : Prop :=
  ∀ s : State, Inv s → ∃ t, step s = .next t

/-- 10_state.md R32, R36, 60_exceptions.md R218: no step but the reset pin clears an error bit or
returns to CFG mode. -/
def Obligations.OnlyResetClearsErrorsAndMode : Prop :=
  ∀ s t : State, step s = .next t → s.currentTurn ≠ .resetPin →
    (∀ c, s.err c = true → t.err c = true) ∧ (s.mode = .run → t.mode = .run)

/-- 10_state.md R21, 60_exceptions.md R222: in RUN mode the configuration registers, the LUT and CAP are
frozen. -/
def Obligations.ConfigurationIsFrozenInRunMode : Prop :=
  ∀ s t : State, step s = .next t → s.currentTurn ≠ .resetPin → s.mode = .run →
    t.cfg = s.cfg ∧ t.mem.lut = s.mem.lut ∧ t.mem.cap = s.mem.cap

/-- 20_memory.md R70: no step but the reset pin writes the display bank, and WB changes only in an accepted
SWAP, with both lanes idle and a notification pending. -/
def Obligations.DisplayBankIsIsolated : Prop :=
  ∀ s t : State, step s = .next t → s.currentTurn ≠ .resetPin →
    t.mem.bank s.displayBank = s.mem.bank s.displayBank ∧
    (t.writeBank ≠ s.writeBank → s.currentTurn = .host ∧ Presents s .h .swap ∧ s.mode = .run ∧
      s.busy .lane0 = false ∧ s.busy .lane1 = false ∧ s.vsp = true)

/-- 60_exceptions.md R216: one command raises at most one cause; a lane step raises none but NUM and
RANGE. -/
def Obligations.OneCausePerCommand : Prop :=
  ∀ s t : State, step s = .next t →
    (∀ p, s.currentTurn = PortId.turn p → ∃ c, ∀ d, d ≠ c → t.err d = s.err d) ∧
    (∀ h, s.currentTurn = .lane h → t.err .ill = s.err .ill ∧ t.err .state = s.err .state)

/-- 10_state.md R37, 41_mapper.md R141: while a lane runs, only its own steps and the reset pin change
its registers or its BUSY bit. -/
def Obligations.NobodyDisturbsARunningLane : Prop :=
  ∀ (s t : State) (h : LaneId), step s = .next t → s.currentTurn ≠ .resetPin →
    s.currentTurn ≠ .lane h → s.busy h = true → t.lane h = s.lane h ∧ t.busy h = true

/-- 10_state.md R54(a), 20_memory.md R74: no step changes a port's command list, and a command pointer
stays or advances by 1, in the turn of the port's own agent. That the lists stand in State is log 5; that
the reset pin (70_reset_and_hazards.md R240) keeps them and discards the presented word by advancing the
pointer is the model's reading, log 7. -/
def Obligations.CommandListsNeverChange : Prop :=
  ∀ (s t : State) (p : PortId), step s = .next t →
    (t.port p).words = (s.port p).words ∧
    ((t.port p).cp = (s.port p).cp ∨
      ((t.port p).cp = (s.port p).cp + 1 ∧
        (s.currentTurn = p.turn ∨ s.currentTurn = .resetPin)))

/-- 70_reset_and_hazards.md R246, 93_implementation_defined.md U8: a stuck state is not an end of the run.
A SWAP held with no notification pending and no VSYNC left is held, with its port, until the reset pin,
whatever the sink and the lanes still do. When the run has ended, or when besides such a SWAP nothing is
left on port S and the lanes are idle, no turn but the reset pin changes anything. -/
def Obligations.EndedAndStuckStatesStay : Prop :=
  (∀ s : State, Stuck s → ¬ Ended s) ∧
  (∀ s : State, StuckForEver s → Stuck s) ∧
  (∀ s t : State, StuckForEver s → s.currentTurn ≠ .resetPin → step s = .next t →
    StuckForEver t ∧ t.portH = s.portH) ∧
  ∀ s t : State,
    Ended s ∨ (StuckForEver s ∧ s.anyBusy = false ∧ s.presented .s = none) →
    s.currentTurn ≠ .resetPin → step s = .next t → t = s.passTurn

/-! ### Interleaving and progress -/

/-- 20_memory.md R72: the one race. From one state that meets the invariant, with both lanes running, the
two orders of one step of each lane leave different entries in a row. -/
def Obligations.OrderOfLanePlotsMatters : Prop :=
  ∃ (s t u : State) (row k : Nat), Inv s ∧ s.busy .lane0 = true ∧ s.busy .lane1 = true ∧
    Host.Core.run core 2 { s with turns := [.lane .lane0, .lane .lane1] } = .next t ∧
    Host.Core.run core 2 { s with turns := [.lane .lane1, .lane .lane0] } = .next u ∧
    k < (s.cntVal s.writeBank row).toNat ∧
    t.slotVal s.writeBank row k ≠ u.slotVal s.writeBank row k

/-- 20_memory.md R69, R72: iteration steps of the two lanes commute, to the same state, unless both
samples fall in the grid and in one row. -/
def Obligations.LanesInDifferentRowsCommute : Prop :=
  ∀ (s t0 t01 t1 t10 : State) (p0 p1 : Sample), Inv s →
    s.busy .lane0 = true → s.busy .lane1 = true →
    s.lane0.j.toNat < s.cfg.iterCount.toNat → s.lane1.j.toNat < s.cfg.iterCount.toNat →
    s.laneSample .lane0 = .ok p0 → s.laneSample .lane1 = .ok p1 →
    (s.cfg.inGrid p0 = false ∨ s.cfg.inGrid p1 = false ∨ ftruncU p0.y ≠ ftruncU p1.y) →
    laneStep .lane0 s = .next t0 → laneStep .lane1 t0 = .next t01 →
    laneStep .lane1 s = .next t1 → laneStep .lane0 t1 = .next t10 → t01 = t10

/-- 41_mapper.md R149, 92_eei_decisions.md D46: however the turns interleave, a lane is idle at some point
of a run of placed turns that gives it as many turns as it has steps left. -/
def Obligations.LaneFinishesWithinItsTurns : Prop :=
  ∀ (s : State) (h : LaneId), Inv s → s.stepsLeft h ≤ s.turns.count (.lane h) →
    ∃ k t, k ≤ s.turns.length ∧ Host.Core.run core k s = .next t ∧ t.busy h = false

/-- 43_sync_scanout.md R190 ("a hold always ends, because a running lane always finishes"): a presented
JOIN is accepted at the latest at the host's first turn after both lanes have had the turns for the
steps they have left. -/
def Obligations.HeldJoinIsAccepted : Prop :=
  ∀ (s : State) (before after : List Turn), Inv s → s.mode = .run → Presents s .h .join →
    s.turns = before ++ .host :: after → (∀ t ∈ before, t ≠ .resetPin) →
    s.stepsLeft .lane0 ≤ before.count (.lane .lane0) →
    s.stepsLeft .lane1 ≤ before.count (.lane .lane1) →
    ∃ k t, k ≤ before.length + 1 ∧ Host.Core.run core k s = .next t ∧
      t.portH.cp = s.portH.cp + 1

/-- 92_eei_decisions.md D46, 70_reset_and_hazards.md R245: on every weakly fair run a lane that runs
finishes (or is reset). -/
def Obligations.FairRunsFinishRunningLanes : Prop :=
  ∀ run : Nat → State, WeaklyFair run → Inv (run 0) →
    ∀ h n, (run n).busy h = true → ∃ m, n ≤ m ∧ (run m).busy h = false
end

