-- ==== Sys2Proof/Laws/Decode.lean ====
section
/-! SUPPORT. The fields of an encoded word are the fields it was encoded from (30_encoding.md R90),
and the bytes of a word are the word (20_memory.md R62). -/

namespace Sys2Proof

theorem opOf_encode (i : Instr) : opOf (encode i) = i.op := by
  apply BitVec.eq_of_getLsbD_eq; intro k hk
  have hA : i.encA.getLsbD (56 + k - 32) = false := BitVec.getLsbD_of_ge _ _ (by omega)
  have hD : i.encD.getLsbD (56 + k) = false := BitVec.getLsbD_of_ge _ _ (by omega)
  have h1 : 56 + k < 64 := by omega
  simp [opOf, encode, hk, hA, hD, h1]

theorem argA_encode (i : Instr) : argA (encode i) = i.encA := by
  apply BitVec.eq_of_getLsbD_eq; intro k hk
  have h56 : 32 + k < 56 := by omega
  have h64 : 32 + k < 64 := by omega
  simp [argA, encode, hk, h56, h64]


theorem argD_encode (i : Instr) : argD (encode i) = i.encD := by
  apply BitVec.eq_of_getLsbD_eq; intro k hk
  have h56 : k < 56 := by omega
  have h64 : k < 64 := by omega
  simp [argD, encode, hk, h56, h64]

theorem rowOf_port {op : BitVec 8} {r : Row} (h : rowOf op = some r) : r ∈ opcodeMap ∧ r.op = op :=
  ⟨List.mem_of_find?_eq_some h, by simpa using List.find?_some h⟩

/-- Decoding on the right port is decoding; on the other it is refused (30_encoding.md R94). -/
theorem decodeOn_eq_ok {p : PortId} {w : Word} {i : Instr} (h : decodeOn p w = .ok i) :
    ∃ r, rowOf (opOf w) = some r ∧ r.port = p ∧ w &&& r.mask = r.pattern ∧ r.read w = i ∧
      i.wellFormed = true := by
  unfold decodeOn at h
  split at h
  · cases h
  · next r hr =>
    split at h
    · unfold Row.decode at h
      split at h
      · split at h
        · cases h; exact ⟨r, hr, ‹_›, ‹_›, rfl, ‹_›⟩
        · cases h
      · cases h
    · cases h

theorem toBytes_length {m : Nat} (n : Nat) (w : BitVec m) : (toBytes n w).length = n := by
  induction n generalizing w with
  | zero => rfl
  | succ n ih => simp [toBytes, ih]

/-- The low bytes of a word, read back, are its value modulo their range. -/
theorem natOfBytes_toBytes {m : Nat} (n : Nat) (w : BitVec m) :
    natOfBytes (toBytes n w) = w.toNat % 256 ^ n := by
  induction n generalizing w with
  | zero => simp [toBytes, natOfBytes, Nat.mod_one]
  | succ n ih =>
    simp only [toBytes, natOfBytes, ih, BitVec.extractLsb'_toNat, BitVec.toNat_ushiftRight,
      Nat.shiftRight_eq_div_pow]
    rw [show (2 ^ 8 : Nat) = 256 from rfl, pow_zero, Nat.div_one, pow_succ', Nat.mod_mul]

/-- Eight bytes of a command word, the least significant first, decode as the word and leave what
follows them. -/
theorem decodeBytes_toBytes (w : Word) (rest : List Byte) :
    decodeBytes (toBytes 8 w ++ rest) = (decodeWord w).map fun i => (i, rest) := by
  have hlen := toBytes_length 8 w
  have htake : (toBytes 8 w ++ rest).take 8 = toBytes 8 w := by
    rw [List.take_append_of_le_length (by omega), List.take_of_length_le (by omega)]
  have hdrop : (toBytes 8 w ++ rest).drop 8 = rest := by
    rw [List.drop_append_of_le_length (by omega), List.drop_of_length_le (by omega),
      List.nil_append]
  have hval : BitVec.ofNat 64 (natOfBytes (toBytes 8 w)) = w := by
    rw [natOfBytes_toBytes, Nat.mod_eq_of_lt (by have := w.isLt; norm_num; omega)]
    simp
  unfold decodeBytes
  rw [if_neg (by rw [List.length_append]; omega), htake, hdrop, hval]
  cases decodeWord w <;> rfl

end Sys2Proof
end

