-- ==== Sys2Proof/Laws/State.lean ====
section
/-! SUPPORT. One lemma for each field of State under each named update, and for each accessor under
each update that it sees or does not see. -/

namespace Sys2Proof.Machine

/-! ### setFlag, raise -/

@[simp] theorem State.setFlag_build (s : State) (n : Nat) (b : Bool) :
    (s.setFlag n b).build = s.build := rfl

@[simp] theorem State.setFlag_cfg (s : State) (n : Nat) (b : Bool) :
    (s.setFlag n b).cfg = s.cfg := rfl

@[simp] theorem State.setFlag_status (s : State) (n : Nat) (b : Bool) :
    (s.setFlag n b).status = putBit s.status n b := rfl

@[simp] theorem State.setFlag_lane0 (s : State) (n : Nat) (b : Bool) :
    (s.setFlag n b).lane0 = s.lane0 := rfl

@[simp] theorem State.setFlag_lane1 (s : State) (n : Nat) (b : Bool) :
    (s.setFlag n b).lane1 = s.lane1 := rfl

@[simp] theorem State.setFlag_mem (s : State) (n : Nat) (b : Bool) :
    (s.setFlag n b).mem = s.mem := rfl

@[simp] theorem State.setFlag_respH (s : State) (n : Nat) (b : Bool) :
    (s.setFlag n b).respH = s.respH := rfl

@[simp] theorem State.setFlag_respS (s : State) (n : Nat) (b : Bool) :
    (s.setFlag n b).respS = s.respS := rfl

@[simp] theorem State.setFlag_portH (s : State) (n : Nat) (b : Bool) :
    (s.setFlag n b).portH = s.portH := rfl

@[simp] theorem State.setFlag_portS (s : State) (n : Nat) (b : Bool) :
    (s.setFlag n b).portS = s.portS := rfl

@[simp] theorem State.setFlag_turns (s : State) (n : Nat) (b : Bool) :
    (s.setFlag n b).turns = s.turns := rfl

@[simp] theorem State.setFlag_ticks (s : State) (n : Nat) (b : Bool) :
    (s.setFlag n b).ticks = s.ticks := rfl

@[simp] theorem State.setFlag_epoch (s : State) (n : Nat) (b : Bool) :
    (s.setFlag n b).epoch = s.epoch := rfl

@[simp] theorem State.raise_build (s : State) (c : Cause) :
    (s.raise c).build = s.build := rfl

@[simp] theorem State.raise_cfg (s : State) (c : Cause) :
    (s.raise c).cfg = s.cfg := rfl

@[simp] theorem State.raise_status (s : State) (c : Cause) :
    (s.raise c).status = putBit s.status c.bit true := rfl

@[simp] theorem State.raise_lane0 (s : State) (c : Cause) :
    (s.raise c).lane0 = s.lane0 := rfl

@[simp] theorem State.raise_lane1 (s : State) (c : Cause) :
    (s.raise c).lane1 = s.lane1 := rfl

@[simp] theorem State.raise_mem (s : State) (c : Cause) :
    (s.raise c).mem = s.mem := rfl

@[simp] theorem State.raise_respH (s : State) (c : Cause) :
    (s.raise c).respH = s.respH := rfl

@[simp] theorem State.raise_respS (s : State) (c : Cause) :
    (s.raise c).respS = s.respS := rfl

@[simp] theorem State.raise_portH (s : State) (c : Cause) :
    (s.raise c).portH = s.portH := rfl

@[simp] theorem State.raise_portS (s : State) (c : Cause) :
    (s.raise c).portS = s.portS := rfl

@[simp] theorem State.raise_turns (s : State) (c : Cause) :
    (s.raise c).turns = s.turns := rfl

@[simp] theorem State.raise_ticks (s : State) (c : Cause) :
    (s.raise c).ticks = s.ticks := rfl

@[simp] theorem State.raise_epoch (s : State) (c : Cause) :
    (s.raise c).epoch = s.epoch := rfl

/-! ### setLane, setMem -/

@[simp] theorem State.setLane_build (s : State) (h : LaneId) (r : LaneRegs) :
    (s.setLane h r).build = s.build := by cases h <;> rfl

@[simp] theorem State.setLane_cfg (s : State) (h : LaneId) (r : LaneRegs) :
    (s.setLane h r).cfg = s.cfg := by cases h <;> rfl

@[simp] theorem State.setLane_status (s : State) (h : LaneId) (r : LaneRegs) :
    (s.setLane h r).status = s.status := by cases h <;> rfl

@[simp] theorem State.setLane_mem (s : State) (h : LaneId) (r : LaneRegs) :
    (s.setLane h r).mem = s.mem := by cases h <;> rfl

@[simp] theorem State.setLane_respH (s : State) (h : LaneId) (r : LaneRegs) :
    (s.setLane h r).respH = s.respH := by cases h <;> rfl

@[simp] theorem State.setLane_respS (s : State) (h : LaneId) (r : LaneRegs) :
    (s.setLane h r).respS = s.respS := by cases h <;> rfl

@[simp] theorem State.setLane_portH (s : State) (h : LaneId) (r : LaneRegs) :
    (s.setLane h r).portH = s.portH := by cases h <;> rfl

@[simp] theorem State.setLane_portS (s : State) (h : LaneId) (r : LaneRegs) :
    (s.setLane h r).portS = s.portS := by cases h <;> rfl

@[simp] theorem State.setLane_turns (s : State) (h : LaneId) (r : LaneRegs) :
    (s.setLane h r).turns = s.turns := by cases h <;> rfl

@[simp] theorem State.setLane_ticks (s : State) (h : LaneId) (r : LaneRegs) :
    (s.setLane h r).ticks = s.ticks := by cases h <;> rfl

@[simp] theorem State.setLane_epoch (s : State) (h : LaneId) (r : LaneRegs) :
    (s.setLane h r).epoch = s.epoch := by cases h <;> rfl

@[simp] theorem State.setMem_build (s : State) (m : Memory) :
    (s.setMem m).build = s.build := rfl

@[simp] theorem State.setMem_cfg (s : State) (m : Memory) :
    (s.setMem m).cfg = s.cfg := rfl

@[simp] theorem State.setMem_status (s : State) (m : Memory) :
    (s.setMem m).status = s.status := rfl

@[simp] theorem State.setMem_lane0 (s : State) (m : Memory) :
    (s.setMem m).lane0 = s.lane0 := rfl

@[simp] theorem State.setMem_lane1 (s : State) (m : Memory) :
    (s.setMem m).lane1 = s.lane1 := rfl

@[simp] theorem State.setMem_mem (s : State) (m : Memory) :
    (s.setMem m).mem = m := rfl

@[simp] theorem State.setMem_respH (s : State) (m : Memory) :
    (s.setMem m).respH = s.respH := rfl

@[simp] theorem State.setMem_respS (s : State) (m : Memory) :
    (s.setMem m).respS = s.respS := rfl

@[simp] theorem State.setMem_portH (s : State) (m : Memory) :
    (s.setMem m).portH = s.portH := rfl

@[simp] theorem State.setMem_portS (s : State) (m : Memory) :
    (s.setMem m).portS = s.portS := rfl

@[simp] theorem State.setMem_turns (s : State) (m : Memory) :
    (s.setMem m).turns = s.turns := rfl

@[simp] theorem State.setMem_ticks (s : State) (m : Memory) :
    (s.setMem m).ticks = s.ticks := rfl

@[simp] theorem State.setMem_epoch (s : State) (m : Memory) :
    (s.setMem m).epoch = s.epoch := rfl

/-! ### setPort, accept, respondH, respondS -/

@[simp] theorem State.setPort_build (s : State) (p : PortId) (q : Port) :
    (s.setPort p q).build = s.build := by cases p <;> rfl

@[simp] theorem State.setPort_cfg (s : State) (p : PortId) (q : Port) :
    (s.setPort p q).cfg = s.cfg := by cases p <;> rfl

@[simp] theorem State.setPort_status (s : State) (p : PortId) (q : Port) :
    (s.setPort p q).status = s.status := by cases p <;> rfl

@[simp] theorem State.setPort_lane0 (s : State) (p : PortId) (q : Port) :
    (s.setPort p q).lane0 = s.lane0 := by cases p <;> rfl

@[simp] theorem State.setPort_lane1 (s : State) (p : PortId) (q : Port) :
    (s.setPort p q).lane1 = s.lane1 := by cases p <;> rfl

@[simp] theorem State.setPort_mem (s : State) (p : PortId) (q : Port) :
    (s.setPort p q).mem = s.mem := by cases p <;> rfl

@[simp] theorem State.setPort_respH (s : State) (p : PortId) (q : Port) :
    (s.setPort p q).respH = s.respH := by cases p <;> rfl

@[simp] theorem State.setPort_respS (s : State) (p : PortId) (q : Port) :
    (s.setPort p q).respS = s.respS := by cases p <;> rfl

@[simp] theorem State.setPort_turns (s : State) (p : PortId) (q : Port) :
    (s.setPort p q).turns = s.turns := by cases p <;> rfl

@[simp] theorem State.setPort_ticks (s : State) (p : PortId) (q : Port) :
    (s.setPort p q).ticks = s.ticks := by cases p <;> rfl

@[simp] theorem State.setPort_epoch (s : State) (p : PortId) (q : Port) :
    (s.setPort p q).epoch = s.epoch := by cases p <;> rfl

@[simp] theorem State.accept_build (s : State) (p : PortId) :
    (s.accept p).build = s.build := by cases p <;> rfl

@[simp] theorem State.accept_cfg (s : State) (p : PortId) :
    (s.accept p).cfg = s.cfg := by cases p <;> rfl

@[simp] theorem State.accept_status (s : State) (p : PortId) :
    (s.accept p).status = s.status := by cases p <;> rfl

@[simp] theorem State.accept_lane0 (s : State) (p : PortId) :
    (s.accept p).lane0 = s.lane0 := by cases p <;> rfl

@[simp] theorem State.accept_lane1 (s : State) (p : PortId) :
    (s.accept p).lane1 = s.lane1 := by cases p <;> rfl

@[simp] theorem State.accept_mem (s : State) (p : PortId) :
    (s.accept p).mem = s.mem := by cases p <;> rfl

@[simp] theorem State.accept_respH (s : State) (p : PortId) :
    (s.accept p).respH = s.respH := by cases p <;> rfl

@[simp] theorem State.accept_respS (s : State) (p : PortId) :
    (s.accept p).respS = s.respS := by cases p <;> rfl

@[simp] theorem State.accept_turns (s : State) (p : PortId) :
    (s.accept p).turns = s.turns := by cases p <;> rfl

@[simp] theorem State.accept_ticks (s : State) (p : PortId) :
    (s.accept p).ticks = s.ticks := by cases p <;> rfl

@[simp] theorem State.accept_epoch (s : State) (p : PortId) :
    (s.accept p).epoch = s.epoch := by cases p <;> rfl

@[simp] theorem State.respondH_build (s : State) (ws : List (BitVec 32)) :
    (s.respondH ws).build = s.build := rfl

@[simp] theorem State.respondH_cfg (s : State) (ws : List (BitVec 32)) :
    (s.respondH ws).cfg = s.cfg := rfl

@[simp] theorem State.respondH_status (s : State) (ws : List (BitVec 32)) :
    (s.respondH ws).status = s.status := rfl

@[simp] theorem State.respondH_lane0 (s : State) (ws : List (BitVec 32)) :
    (s.respondH ws).lane0 = s.lane0 := rfl

@[simp] theorem State.respondH_lane1 (s : State) (ws : List (BitVec 32)) :
    (s.respondH ws).lane1 = s.lane1 := rfl

@[simp] theorem State.respondH_mem (s : State) (ws : List (BitVec 32)) :
    (s.respondH ws).mem = s.mem := rfl

@[simp] theorem State.respondH_respH (s : State) (ws : List (BitVec 32)) :
    (s.respondH ws).respH = s.respH ++ ws := rfl

@[simp] theorem State.respondH_respS (s : State) (ws : List (BitVec 32)) :
    (s.respondH ws).respS = s.respS := rfl

@[simp] theorem State.respondH_portH (s : State) (ws : List (BitVec 32)) :
    (s.respondH ws).portH = s.portH := rfl

@[simp] theorem State.respondH_portS (s : State) (ws : List (BitVec 32)) :
    (s.respondH ws).portS = s.portS := rfl

@[simp] theorem State.respondH_turns (s : State) (ws : List (BitVec 32)) :
    (s.respondH ws).turns = s.turns := rfl

@[simp] theorem State.respondH_ticks (s : State) (ws : List (BitVec 32)) :
    (s.respondH ws).ticks = s.ticks := rfl

@[simp] theorem State.respondH_epoch (s : State) (ws : List (BitVec 32)) :
    (s.respondH ws).epoch = s.epoch := rfl

@[simp] theorem State.respondS_build (s : State) (ws : List (BitVec 16)) :
    (s.respondS ws).build = s.build := rfl

@[simp] theorem State.respondS_cfg (s : State) (ws : List (BitVec 16)) :
    (s.respondS ws).cfg = s.cfg := rfl

@[simp] theorem State.respondS_status (s : State) (ws : List (BitVec 16)) :
    (s.respondS ws).status = s.status := rfl

@[simp] theorem State.respondS_lane0 (s : State) (ws : List (BitVec 16)) :
    (s.respondS ws).lane0 = s.lane0 := rfl

@[simp] theorem State.respondS_lane1 (s : State) (ws : List (BitVec 16)) :
    (s.respondS ws).lane1 = s.lane1 := rfl

@[simp] theorem State.respondS_mem (s : State) (ws : List (BitVec 16)) :
    (s.respondS ws).mem = s.mem := rfl

@[simp] theorem State.respondS_respH (s : State) (ws : List (BitVec 16)) :
    (s.respondS ws).respH = s.respH := rfl

@[simp] theorem State.respondS_respS (s : State) (ws : List (BitVec 16)) :
    (s.respondS ws).respS = s.respS ++ ws := rfl

@[simp] theorem State.respondS_portH (s : State) (ws : List (BitVec 16)) :
    (s.respondS ws).portH = s.portH := rfl

@[simp] theorem State.respondS_portS (s : State) (ws : List (BitVec 16)) :
    (s.respondS ws).portS = s.portS := rfl

@[simp] theorem State.respondS_turns (s : State) (ws : List (BitVec 16)) :
    (s.respondS ws).turns = s.turns := rfl

@[simp] theorem State.respondS_ticks (s : State) (ws : List (BitVec 16)) :
    (s.respondS ws).ticks = s.ticks := rfl

@[simp] theorem State.respondS_epoch (s : State) (ws : List (BitVec 16)) :
    (s.respondS ws).epoch = s.epoch := rfl

/-! ### applyReset -/

@[simp] theorem State.applyReset_build (s : State) :
    (s.applyReset).build = s.build := rfl

@[simp] theorem State.applyReset_cfg (s : State) :
    (s.applyReset).cfg = State.reset.cfg := rfl

@[simp] theorem State.applyReset_status (s : State) :
    (s.applyReset).status = State.reset.status := rfl

@[simp] theorem State.applyReset_lane0 (s : State) :
    (s.applyReset).lane0 = State.reset.lane0 := rfl

@[simp] theorem State.applyReset_lane1 (s : State) :
    (s.applyReset).lane1 = State.reset.lane1 := rfl

@[simp] theorem State.applyReset_mem (s : State) :
    (s.applyReset).mem = State.reset.mem := rfl

@[simp] theorem State.applyReset_respH (s : State) :
    (s.applyReset).respH = State.reset.respH := rfl

@[simp] theorem State.applyReset_respS (s : State) :
    (s.applyReset).respS = State.reset.respS := rfl

@[simp] theorem State.applyReset_portH (s : State) :
    (s.applyReset).portH = s.portH.discard := rfl

@[simp] theorem State.applyReset_portS (s : State) :
    (s.applyReset).portS = s.portS.discard := rfl

@[simp] theorem State.applyReset_turns (s : State) :
    (s.applyReset).turns = s.turns := rfl

@[simp] theorem State.applyReset_ticks (s : State) :
    (s.applyReset).ticks = s.ticks := rfl

@[simp] theorem State.applyReset_epoch (s : State) :
    (s.applyReset).epoch = s.epoch + 1 := rfl

/-! ### passTurn -/

@[simp] theorem State.passTurn_build (s : State) :
    s.passTurn.build = s.build := by
  unfold State.passTurn; split <;> rfl

@[simp] theorem State.passTurn_cfg (s : State) :
    s.passTurn.cfg = s.cfg := by
  unfold State.passTurn; split <;> rfl

@[simp] theorem State.passTurn_status (s : State) :
    s.passTurn.status = s.status := by
  unfold State.passTurn; split <;> rfl

@[simp] theorem State.passTurn_lane0 (s : State) :
    s.passTurn.lane0 = s.lane0 := by
  unfold State.passTurn; split <;> rfl

@[simp] theorem State.passTurn_lane1 (s : State) :
    s.passTurn.lane1 = s.lane1 := by
  unfold State.passTurn; split <;> rfl

@[simp] theorem State.passTurn_mem (s : State) :
    s.passTurn.mem = s.mem := by
  unfold State.passTurn; split <;> rfl

@[simp] theorem State.passTurn_respH (s : State) :
    s.passTurn.respH = s.respH := by
  unfold State.passTurn; split <;> rfl

@[simp] theorem State.passTurn_respS (s : State) :
    s.passTurn.respS = s.respS := by
  unfold State.passTurn; split <;> rfl

@[simp] theorem State.passTurn_portH (s : State) :
    s.passTurn.portH = s.portH := by
  unfold State.passTurn; split <;> rfl

@[simp] theorem State.passTurn_portS (s : State) :
    s.passTurn.portS = s.portS := by
  unfold State.passTurn; split <;> rfl

@[simp] theorem State.passTurn_epoch (s : State) :
    s.passTurn.epoch = s.epoch := by
  unfold State.passTurn; split <;> rfl

/-! ### Accessors under the updates -/

@[simp] theorem State.lane_setLane_same (s : State) (h : LaneId) (r : LaneRegs) :
    (s.setLane h r).lane h = r := by cases h <;> rfl

theorem State.lane_setLane_other (s : State) {h g : LaneId} (r : LaneRegs) (hne : g ≠ h) :
    (s.setLane h r).lane g = s.lane g := by cases h <;> cases g <;> simp_all <;> rfl

@[simp] theorem State.port_setPort_same (s : State) (p : PortId) (q : Port) :
    (s.setPort p q).port p = q := by cases p <;> rfl

theorem State.port_setPort_other (s : State) {p r : PortId} (q : Port) (hne : r ≠ p) :
    (s.setPort p q).port r = s.port r := by cases p <;> cases r <;> simp_all <;> rfl

@[simp] theorem State.port_accept_same (s : State) (p : PortId) :
    (s.accept p).port p = { s.port p with cp := (s.port p).cp + 1 } := by cases p <;> rfl

theorem State.port_accept_other (s : State) {p r : PortId} (hne : r ≠ p) :
    (s.accept p).port r = s.port r := by cases p <;> cases r <;> simp_all <;> rfl

@[simp] theorem State.accept_h_portH (s : State) :
    (s.accept .h).portH = { s.portH with cp := s.portH.cp + 1 } := rfl

@[simp] theorem State.accept_h_portS (s : State) : (s.accept .h).portS = s.portS := rfl

@[simp] theorem State.accept_s_portS (s : State) :
    (s.accept .s).portS = { s.portS with cp := s.portS.cp + 1 } := rfl

@[simp] theorem State.accept_s_portH (s : State) : (s.accept .s).portH = s.portH := rfl

@[simp] theorem State.lane_lane0 (s : State) : s.lane .lane0 = s.lane0 := rfl

@[simp] theorem State.lane_lane1 (s : State) : s.lane .lane1 = s.lane1 := rfl

@[simp] theorem Memory.bank_setBank_same (m : Memory) (b : BankId) (k : Bank) :
    (m.setBank b k).bank b = k := by cases b <;> rfl

theorem Memory.bank_setBank_other (m : Memory) {b d : BankId} (k : Bank) (hne : d ≠ b) :
    (m.setBank b k).bank d = m.bank d := by cases b <;> cases d <;> simp_all <;> rfl

@[simp] theorem Memory.setBank_lut (m : Memory) (b : BankId) (k : Bank) :
    (m.setBank b k).lut = m.lut := by cases b <;> rfl

@[simp] theorem Memory.setBank_cap (m : Memory) (b : BankId) (k : Bank) :
    (m.setBank b k).cap = m.cap := by cases b <;> rfl

@[simp] theorem BankId.other_ne (b : BankId) : b.other ≠ b := by cases b <;> decide

/-- The display bank is the bank that is not the write bank (10_state.md R33). -/
@[simp] theorem State.displayBank_eq_other (s : State) : s.displayBank = s.writeBank.other := by
  unfold State.displayBank State.writeBank; split <;> rfl

end Sys2Proof.Machine
end

