-- ==== Sys2Proof/Laws/Flags.lean ====
section
/-! SUPPORT. The bits of STATUS under the updates (10_state.md R31): what `setFlag` and `raise` do to
one bit, and that every other update leaves every bit. -/

namespace Sys2Proof.Machine

/-- `putBit` sets its own bit and leaves every other. -/
theorem putBit_getLsbD (w : BitVec 32) (n m : Nat) (b : Bool) :
    (putBit w n b).getLsbD m = if m = n then (b && decide (n < 32)) else w.getLsbD m := by
  unfold putBit
  by_cases hm : m < 32
  · by_cases hmn : m = n
    · subst hmn; cases b <;> simp [hm]
    · cases b <;> simp [hm, hmn]
  · have hw : w.getLsbD m = false := BitVec.getLsbD_of_ge w m (by omega)
    by_cases hmn : m = n
    · subst hmn; cases b <;> simp [hm, hw]
    · cases b <;> simp [hmn, hw, Ne.symm hmn]

/-- Writing a bit twice is writing it the second time. -/
theorem putBit_putBit (w : BitVec 32) (n : Nat) (b c : Bool) :
    putBit (putBit w n b) n c = putBit w n c := by
  apply BitVec.eq_of_getLsbD_eq; intro m hm
  simp only [putBit_getLsbD]; split <;> rfl

/-- Two writes to different bits commute. -/
theorem putBit_comm (w : BitVec 32) {n m : Nat} (hne : n ≠ m) (b c : Bool) :
    putBit (putBit w n b) m c = putBit (putBit w m c) n b := by
  apply BitVec.eq_of_getLsbD_eq; intro k hk
  simp only [putBit_getLsbD]; split <;> split <;> simp_all

/-- Two causes with the same STATUS bit are one cause (60_exceptions.md R211). -/
theorem Cause.bit_inj {c d : Cause} : c.bit = d.bit ↔ c = d := by
  cases c <;> cases d <;> decide

theorem State.flag_setFlag (s : State) (n m : Nat) (b : Bool) :
    (s.setFlag n b).flag m = if m = n then (b && decide (n < 32)) else s.flag m :=
  putBit_getLsbD s.status n m b

@[simp] theorem State.flag_setFlag_same (s : State) {n : Nat} (b : Bool) (hn : n < 32) :
    (s.setFlag n b).flag n = b := by simp [State.flag_setFlag, hn]

theorem State.flag_setFlag_other (s : State) {n m : Nat} (b : Bool) (hne : m ≠ n) :
    (s.setFlag n b).flag m = s.flag m := by simp [State.flag_setFlag, hne]

theorem State.flag_raise (s : State) (c : Cause) (m : Nat) :
    (s.raise c).flag m = (decide (m = c.bit) || s.flag m) := by
  have h32 : c.bit < 32 := by cases c <;> decide
  unfold State.raise; rw [State.flag_setFlag]; by_cases h : m = c.bit <;> simp [h, h32]

/-- `raise` leaves every bit below 8: mode, banks, latch, busy bits (60_exceptions.md R217). -/
theorem State.flag_raise_low (s : State) (c : Cause) {m : Nat} (hm : m < 8) :
    (s.raise c).flag m = s.flag m := by
  have : m ≠ c.bit := by unfold Cause.bit; omega
  simp [State.flag_raise, this]

@[simp] theorem State.err_raise (s : State) (c d : Cause) :
    (s.raise c).err d = (decide (d = c) || s.err d) := by
  simp [State.err, State.flag_raise, Cause.bit_inj]

@[simp] theorem State.mode_raise (s : State) (c : Cause) : (s.raise c).mode = s.mode := by
  unfold State.mode; rw [State.flag_raise_low s c (by decide)]

@[simp] theorem State.writeBank_raise (s : State) (c : Cause) :
    (s.raise c).writeBank = s.writeBank := by
  unfold State.writeBank; rw [State.flag_raise_low s c (by decide)]

@[simp] theorem State.vsp_raise (s : State) (c : Cause) : (s.raise c).vsp = s.vsp := by
  unfold State.vsp; rw [State.flag_raise_low s c (by decide)]

@[simp] theorem State.busy_raise (s : State) (c : Cause) (h : LaneId) :
    (s.raise c).busy h = s.busy h := by
  unfold State.busy; rw [State.flag_raise_low s c (by cases h <;> decide)]

/-! ### A flag sees only `status` -/

/-- States with the same STATUS have the same flags. -/
theorem State.flag_congr {s t : State} (h : t.status = s.status) (n : Nat) : t.flag n = s.flag n := by
  unfold State.flag; rw [h]

theorem State.mode_congr {s t : State} (h : t.status = s.status) : t.mode = s.mode := by
  unfold State.mode State.flag; rw [h]

theorem State.writeBank_congr {s t : State} (h : t.status = s.status) :
    t.writeBank = s.writeBank := by unfold State.writeBank State.flag; rw [h]

theorem State.busy_congr {s t : State} (h : t.status = s.status) (l : LaneId) :
    t.busy l = s.busy l := by unfold State.busy State.flag; rw [h]

theorem State.anyBusy_congr {s t : State} (h : t.status = s.status) : t.anyBusy = s.anyBusy := by
  unfold State.anyBusy; rw [State.busy_congr h, State.busy_congr h]

theorem State.err_congr {s t : State} (h : t.status = s.status) (c : Cause) : t.err c = s.err c := by
  unfold State.err State.flag; rw [h]

@[simp] theorem State.mode_accept (s : State) (p : PortId) : (s.accept p).mode = s.mode :=
  State.mode_congr (by simp)

@[simp] theorem State.writeBank_accept (s : State) (p : PortId) :
    (s.accept p).writeBank = s.writeBank := State.writeBank_congr (by simp)

@[simp] theorem State.busy_accept (s : State) (p : PortId) (h : LaneId) :
    (s.accept p).busy h = s.busy h := State.busy_congr (by simp) h

@[simp] theorem State.flag_accept (s : State) (p : PortId) (n : Nat) :
    (s.accept p).flag n = s.flag n := State.flag_congr (by simp) n

@[simp] theorem State.mode_setLane (s : State) (h : LaneId) (r : LaneRegs) :
    (s.setLane h r).mode = s.mode := State.mode_congr (by simp)

@[simp] theorem State.writeBank_setLane (s : State) (h : LaneId) (r : LaneRegs) :
    (s.setLane h r).writeBank = s.writeBank := State.writeBank_congr (by simp)

@[simp] theorem State.busy_setLane (s : State) (h : LaneId) (r : LaneRegs) (g : LaneId) :
    (s.setLane h r).busy g = s.busy g := State.busy_congr (by simp) g

@[simp] theorem State.flag_setLane (s : State) (h : LaneId) (r : LaneRegs) (n : Nat) :
    (s.setLane h r).flag n = s.flag n := State.flag_congr (by simp) n

@[simp] theorem State.flag_setMem (s : State) (m : Memory) (n : Nat) :
    (s.setMem m).flag n = s.flag n := rfl

@[simp] theorem State.mode_setMem (s : State) (m : Memory) : (s.setMem m).mode = s.mode := rfl

@[simp] theorem State.writeBank_setMem (s : State) (m : Memory) :
    (s.setMem m).writeBank = s.writeBank := rfl

@[simp] theorem State.busy_setMem (s : State) (m : Memory) (h : LaneId) :
    (s.setMem m).busy h = s.busy h := rfl

@[simp] theorem State.flag_passTurn (s : State) (n : Nat) : s.passTurn.flag n = s.flag n :=
  State.flag_congr (by simp) n

@[simp] theorem State.mode_passTurn (s : State) : s.passTurn.mode = s.mode :=
  State.mode_congr (by simp)

@[simp] theorem State.writeBank_passTurn (s : State) : s.passTurn.writeBank = s.writeBank :=
  State.writeBank_congr (by simp)

@[simp] theorem State.busy_passTurn (s : State) (h : LaneId) : s.passTurn.busy h = s.busy h :=
  State.busy_congr (by simp) h

@[simp] theorem State.anyBusy_passTurn (s : State) : s.passTurn.anyBusy = s.anyBusy :=
  State.anyBusy_congr (by simp)

/-- The reserved bits stay 0 when a named bit is written (10_state.md R31). -/
theorem putBit_reserved {w : BitVec 32} {n : Nat} (b : Bool) (hn : namedBits.getLsbD n = true)
    (hw : w &&& ~~~ namedBits = 0) : putBit w n b &&& ~~~ namedBits = 0 := by
  apply BitVec.eq_of_getLsbD_eq; intro k hk
  have hwk : (w &&& ~~~ namedBits).getLsbD k = false := by rw [hw]; simp
  simp only [BitVec.getLsbD_and, BitVec.getLsbD_not, putBit_getLsbD] at hwk ⊢
  by_cases hkn : k = n
  · subst hkn; simp [hn]
  · simpa [hkn] using hwk

end Sys2Proof.Machine
end

