-- ==== Sys2Proof/Laws/Mem.lean ====
section
/-! SUPPORT. The element lists: a read after a write, and that every operation keeps the canonical
form (Machine/Mem.lean). -/

namespace Sys2Proof.Machine

variable {n : Nat}

@[simp] theorem cellsGet?_nil (k : Nat) : cellsGet? ([] : Cells n) k = none := rfl

/-- Reading an index after writing it gives the value written. -/
@[simp] theorem cellsGet?_put_same (m : Cells n) (k : Nat) (v : BitVec n) :
    cellsGet? (cellsPut m k v) k = some v := by
  induction m with
  | nil => simp [cellsPut, cellsGet?]
  | cons c rest ih =>
    obtain ⟨a, w⟩ := c
    simp only [cellsPut]
    split
    · simp [cellsGet?]
    · split
      · simp [cellsGet?]
      · have hne : a ≠ k := by omega
        simp [cellsGet?, hne, ih]

/-- A write leaves every other index alone. -/
theorem cellsGet?_put_other (m : Cells n) {k l : Nat} (v : BitVec n) (hne : l ≠ k) :
    cellsGet? (cellsPut m k v) l = cellsGet? m l := by
  induction m with
  | nil => simp [cellsPut, cellsGet?, Ne.symm hne]
  | cons c rest ih =>
    obtain ⟨a, w⟩ := c
    simp only [cellsPut]
    split
    · simp [cellsGet?, Ne.symm hne]
    · split
      · next h => subst h; simp [cellsGet?, Ne.symm hne]
      · simp only [cellsGet?, ih]

/-- Every entry after a write is the one written or was there before. -/
theorem mem_cellsPut {m : Cells n} {k : Nat} {v : BitVec n} {c : Nat × BitVec n}
    (h : c ∈ cellsPut m k v) : c = (k, v) ∨ c ∈ m := by
  induction m with
  | nil => simpa [cellsPut] using h
  | cons d rest ih =>
    obtain ⟨a, w⟩ := d
    simp only [cellsPut] at h
    split at h
    · simpa using h
    · split at h
      · simp at h; rcases h with h | h <;> simp [h]
      · simp only [List.mem_cons] at h ⊢
        rcases h with h | h
        · exact .inr (.inl h)
        · rcases ih h with h | h <;> simp [h]

/-- A write keeps the indices strictly rising. -/
theorem cellsRising_put {m : Cells n} (k : Nat) (v : BitVec n) (h : cellsRising m) :
    cellsRising (cellsPut m k v) := by
  induction m with
  | nil => simp [cellsRising, cellsPut]
  | cons d rest ih =>
    obtain ⟨a, w⟩ := d
    obtain ⟨hd, hr⟩ := List.pairwise_cons.mp h
    simp only [cellsPut]
    split
    · next hk =>
      refine List.pairwise_cons.mpr ⟨?_, h⟩
      intro c hc
      rcases List.mem_cons.mp hc with rfl | hc
      · exact hk
      · exact lt_trans hk (hd c hc)
    · split
      · next hk => subst hk; exact List.pairwise_cons.mpr ⟨hd, hr⟩
      · refine List.pairwise_cons.mpr ⟨?_, ih hr⟩
        intro c hc
        rcases mem_cellsPut hc with rfl | hc
        · simp; omega
        · exact hd c hc

/-- Taking entries off keeps the indices strictly rising. -/
theorem cellsRising_filter {m : Cells n} (p : Nat × BitVec n → Bool) (h : cellsRising m) :
    cellsRising (m.filter p) := List.Pairwise.filter p h

/-- What a filter on the index leaves of a read. -/
theorem cellsGet?_filter (m : Cells n) (p : Nat → Bool) (k : Nat) :
    cellsGet? (m.filter fun c => p c.1) k = if p k then cellsGet? m k else none := by
  induction m with
  | nil => simp
  | cons c rest ih =>
    obtain ⟨a, w⟩ := c
    by_cases hak : a = k
    · subst hak; by_cases hp : p a <;> simp [hp, cellsGet?, ih]
    · by_cases hp : p a <;> simp [hp, cellsGet?, hak, ih]

@[simp] theorem cellsGetZ_nil (k : Nat) : cellsGetZ ([] : Cells n) k = 0 := rfl

/-- Reading an index of a zero-filled space after writing it gives the value written. -/
@[simp] theorem cellsGetZ_putZ_same (m : Cells n) (k : Nat) (v : BitVec n) :
    cellsGetZ (cellsPutZ m k v) k = v := by
  unfold cellsGetZ cellsPutZ cellsDrop
  split
  · next h => subst h; rw [cellsGet?_filter m (fun a => decide (a ≠ k))]; simp
  · simp

/-- A write to a zero-filled space leaves every other index alone. -/
theorem cellsGetZ_putZ_other (m : Cells n) {k l : Nat} (v : BitVec n) (hne : l ≠ k) :
    cellsGetZ (cellsPutZ m k v) l = cellsGetZ m l := by
  unfold cellsGetZ cellsPutZ cellsDrop
  split
  · rw [cellsGet?_filter m (fun a => decide (a ≠ k))]; simp [hne]
  · rw [cellsGet?_put_other m v hne]

/-- Clearing the indices below `r` makes them read 0 and leaves the others. -/
theorem cellsGetZ_dropBelow (m : Cells n) (r k : Nat) :
    cellsGetZ (cellsDropBelow m r) k = if r ≤ k then cellsGetZ m k else 0 := by
  unfold cellsGetZ cellsDropBelow
  rw [cellsGet?_filter m (fun a => decide (r ≤ a))]
  by_cases h : r ≤ k <;> simp [h]

theorem cellsRising_putZ {m : Cells n} (k : Nat) (v : BitVec n) (h : cellsRising m) :
    cellsRising (cellsPutZ m k v) := by
  unfold cellsPutZ cellsDrop; split
  · exact cellsRising_filter _ h
  · exact cellsRising_put k v h

theorem cellsNonzero_putZ {m : Cells n} (k : Nat) (v : BitVec n) (h : cellsNonzero m) :
    cellsNonzero (cellsPutZ m k v) := by
  unfold cellsPutZ cellsDrop; split
  · intro c hc; exact h c (List.mem_filter.mp hc).1
  · next hv =>
    intro c hc
    rcases mem_cellsPut hc with rfl | hc
    · exact hv
    · exact h c hc

/-- Every entry after a write to a zero-filled space is the one written or was there before. -/
theorem mem_cellsPutZ {m : Cells n} {k : Nat} {v : BitVec n} {c : Nat × BitVec n}
    (h : c ∈ cellsPutZ m k v) : c = (k, v) ∨ c ∈ m := by
  unfold cellsPutZ cellsDrop at h; split at h
  · exact .inr (List.mem_filter.mp h).1
  · exact mem_cellsPut h

/-- Two writes to different indices of a rising list commute, as lists. -/
theorem cellsPut_comm {m : Cells n} {k l : Nat} (v w : BitVec n) (hne : k ≠ l) :
    cellsPut (cellsPut m k v) l w = cellsPut (cellsPut m l w) k v := by
  induction m with
  | nil =>
    by_cases h : l < k
    · have : ¬ k < l := by omega
      simp [cellsPut, h, this, hne]
    · have : k < l := by omega
      simp [cellsPut, h, this, Ne.symm hne]
  | cons c rest ih =>
    obtain ⟨a, u⟩ := c
    simp only [cellsPut]
    split_ifs <;> simp only [cellsPut] <;> split_ifs <;>
      first
        | (exfalso; omega)
        | rfl
        | rw [ih]

/-! ### The memories -/

/-- The memories right after reset are in canonical form. -/
theorem Memory.wf_reset : Memory.reset.wf := by decide

theorem Memory.wf_setBank {m : Memory} (b : BankId) {k : Bank} (hm : m.wf) (hk : k.wf) :
    (m.setBank b k).wf := by
  obtain ⟨h1, h2, h3, h4, h5⟩ := hm
  cases b
  · exact ⟨h1, h2, h3, hk, h5⟩
  · exact ⟨h1, h2, h3, h4, hk⟩

theorem Memory.wf_bank {m : Memory} (b : BankId) (hm : m.wf) : (m.bank b).wf := by
  obtain ⟨_, _, _, h4, h5⟩ := hm; cases b <;> assumption

/-- A write to CNT keeps the canonical form. -/
theorem Memory.wf_putCnt {m : Memory} (b : BankId) (row : Nat) (v : BitVec 11) (hm : m.wf) :
    (m.putCnt b row v).wf := by
  obtain ⟨h1, h2, h3⟩ := Memory.wf_bank b hm
  exact Memory.wf_setBank b hm ⟨cellsRising_putZ _ _ h1, cellsNonzero_putZ _ _ h2, h3⟩

/-- A write to SLOT keeps the canonical form. -/
theorem Memory.wf_putSlot {m : Memory} (b : BankId) (row k : Nat) (v : Entry) (hm : m.wf) :
    (m.putSlot b row k v).wf := by
  obtain ⟨h1, h2, h3⟩ := Memory.wf_bank b hm
  exact Memory.wf_setBank b hm ⟨h1, h2, cellsRising_put _ _ h3⟩

/-- A write to LUT keeps the canonical form. -/
theorem Memory.wf_putLut {m : Memory} (k : Nat) (v : F32) (hm : m.wf) :
    ({ m with lut := cellsPut m.lut k v } : Memory).wf := by
  obtain ⟨h1, h2⟩ := hm; exact ⟨cellsRising_put _ _ h1, h2⟩

/-- A write to CAP keeps the canonical form. -/
theorem Memory.wf_putCap {m : Memory} (row : Nat) (v : BitVec 11) (hm : m.wf) :
    ({ m with cap := cellsPutZ m.cap row v } : Memory).wf := by
  obtain ⟨h1, h2, h3, h4⟩ := hm
  exact ⟨h1, cellsRising_putZ _ _ h2, cellsNonzero_putZ _ _ h3, h4⟩

end Sys2Proof.Machine
end

