-- ==== Sys2Proof/Laws/Ops.lean ====
section
/-! SUPPORT. One lemma for each shared operation of Machine/Ops.lean and for each meaning, that says
once everything it can do: cite it instead of unfolding the operation. -/

namespace Sys2Proof.Machine

/-! ### Outcomes -/

/-- What goes on from a read answers a next state only if the read did. -/
theorem orFault_next {α : Type} {r : Except Fault α} {k : α → Out} {t : State}
    (h : orFault r k = .next t) : ∃ a, r = .ok a ∧ k a = .next t := by
  cases r with
  | error f => simp [orFault] at h
  | ok a => exact ⟨a, rfl, h⟩

@[simp] theorem orFault_ok {α : Type} (a : α) (k : α → Out) : orFault (.ok a) k = k a := rfl

theorem bind_ok {α β : Type} {x : Except Fault α} {f : α → Except Fault β} {b : β}
    (h : (x >>= f) = .ok b) : ∃ a, x = .ok a ∧ f a = .ok b := by
  cases x with
  | error e => cases h
  | ok a => exact ⟨a, rfl, h⟩

@[simp] theorem ok_bind {α β : Type} (a : α) (f : α → Except Fault β) :
    ((Except.ok a : Except Fault α) >>= f) = f a := rfl

theorem reject_next {s t : State} {c : Cause} {p : PortId} :
    s.reject c p = .next t ↔ t = (s.raise c).accept p := by
  simp [State.reject, eq_comm]

/-- The mode test: in the other mode the command raises STATE (30_encoding.md R97). -/
theorem inMode_same {s : State} {m : Mode} (e : Out) (h : s.mode = m) : s.inMode m e = e := by
  simp [State.inMode, h]

theorem inMode_other {s : State} {m : Mode} (e : Out) (h : s.mode ≠ m) :
    s.inMode m e = s.reject .state .h := by simp [State.inMode, h]

/-- A command under the mode test either runs in its mode or raises STATE. -/
theorem inMode_next {s t : State} {m : Mode} {e : Out} (h : s.inMode m e = .next t) :
    (s.mode = m ∧ e = .next t) ∨ (s.mode ≠ m ∧ t = (s.raise .state).accept .h) := by
  unfold State.inMode at h
  split at h
  · exact .inl ⟨‹_›, h⟩
  · exact .inr ⟨‹_›, reject_next.mp h⟩

/-! ### Memory primitives -/

theorem readLut_ok {s : State} {k : Nat} (h : k < s.build.lutDepth) :
    s.readLut k = .ok (s.lutVal k) := by simp [State.readLut, h]

theorem readLut_eq_ok {s : State} {k : Nat} {v : F32} (h : s.readLut k = .ok v) :
    k < s.build.lutDepth ∧ v = s.lutVal k := by
  unfold State.readLut at h; split at h
  · cases h; exact ⟨‹_›, rfl⟩
  · cases h

theorem writeLut_eq_ok {s t : State} {k : Nat} {v : F32} (h : s.writeLut k v = .ok t) :
    k < s.build.lutDepth ∧ t = s.setMem { s.mem with lut := cellsPut s.mem.lut k v } := by
  unfold State.writeLut at h; split at h
  · cases h; exact ⟨‹_›, rfl⟩
  · cases h

theorem writeCap_eq_ok {s t : State} {row : Nat} {v : BitVec 11} (h : s.writeCap row v = .ok t) :
    row < s.build.rowsMax ∧ t = s.setMem { s.mem with cap := cellsPutZ s.mem.cap row v } := by
  unfold State.writeCap at h; split at h
  · cases h; exact ⟨‹_›, rfl⟩
  · cases h

theorem readCnt_eq_ok {s : State} {b : BankId} {row : Nat} {v : BitVec 11}
    (h : s.readCnt b row = .ok v) : row < s.build.rowsMax ∧ v = s.cntVal b row := by
  unfold State.readCnt at h; split at h
  · cases h; exact ⟨‹_›, rfl⟩
  · cases h

theorem readCap_eq_ok {s : State} {row : Nat} {v : BitVec 11}
    (h : s.readCap row = .ok v) : row < s.build.rowsMax ∧ v = s.capVal row := by
  unfold State.readCap at h; split at h
  · cases h; exact ⟨‹_›, rfl⟩
  · cases h

theorem writeSlot_eq_ok {s t : State} {b : BankId} {row k : Nat} {v : Entry}
    (h : s.writeSlot b row k v = .ok t) :
    (row < s.build.rowsMax ∧ k < s.build.capMax) ∧ t = s.setMem (s.mem.putSlot b row k v) := by
  unfold State.writeSlot at h; split at h
  · cases h; exact ⟨‹_›, rfl⟩
  · cases h

theorem writeCnt_eq_ok {s t : State} {b : BankId} {row : Nat} {v : BitVec 11}
    (h : s.writeCnt b row v = .ok t) :
    row < s.build.rowsMax ∧ t = s.setMem (s.mem.putCnt b row v) := by
  unfold State.writeCnt at h; split at h
  · cases h; exact ⟨‹_›, rfl⟩
  · cases h

/-- Reading entries inside the space gives what they hold, in index order. -/
theorem readEntries_ok {s : State} {b : BankId} {row : Nat} (hrow : row < s.build.rowsMax) :
    ∀ k n : Nat, k + n ≤ s.build.capMax →
      s.readEntries b row k n = .ok ((List.range' k n).map (s.slotVal b row)) := by
  intro k n
  induction n generalizing k with
  | zero => intro _; simp [State.readEntries]
  | succ n ih =>
    intro hk
    have hread : s.readSlot b row k = .ok (s.slotVal b row k) := by
      simp [State.readSlot, hrow]; omega
    simp [State.readEntries, hread, ih (k + 1) (by omega), List.range'_succ]

/-- Whatever entries are read, they are what the elements hold, in index order. -/
theorem readEntries_eq_ok {s : State} {b : BankId} {row : Nat} :
    ∀ {k n : Nat} {es : List Entry}, s.readEntries b row k n = .ok es →
      es = (List.range' k n).map (s.slotVal b row) := by
  intro k n
  induction n generalizing k with
  | zero => intro es h; simp [State.readEntries] at h; simp [h]
  | succ n ih =>
    intro es h
    unfold State.readEntries at h
    split at h
    · cases h
    · next e he =>
      split at h
      · cases h
      · next es' hes =>
        cases h
        have : e = s.slotVal b row k := by
          unfold State.readSlot at he; split at he
          · cases he; rfl
          · cases he
        simp [this, ih hes, List.range'_succ]

/-- Reading a whole row gives its valid entries. -/
theorem readEntries_row {s : State} {b : BankId} {row : Nat} (hrow : row < s.build.rowsMax)
    (hcnt : (s.cntVal b row).toNat ≤ s.build.capMax) :
    s.readEntries b row 0 (s.cntVal b row).toNat = .ok (s.rowEntries b row) := by
  rw [readEntries_ok hrow 0 _ (by omega), State.rowEntries, List.range_eq_range']

/-! ### Plot (42_slots.md R171) -/

/-- A full row drops every sample, whatever its x (90_conflicts.md C2). -/
theorem plotAction_full {n cap : Nat} (es : List Entry) (x : BitVec 10) (h : cap ≤ n) :
    plotAction n cap es x = .drop := by simp [plotAction, h]

/-- Everything a Plot can do: drop the sample, overwrite an entry, or append one. -/
theorem plot_cases {s t : State} {row : Nat} {x : BitVec 10} {c : Colour}
    (h : s.plot row x c = .ok t) :
    row < s.build.rowsMax ∧
    ((s.plotActionAt row x = .drop ∧ t = s) ∨
     (∃ k, s.plotActionAt row x = .overwrite k ∧ k < s.build.capMax ∧
        t = s.setMem (s.mem.putSlot s.writeBank row k (packEntry x c))) ∨
     (∃ k, s.plotActionAt row x = .append k ∧ k < s.build.capMax ∧
        t = s.setMem ((s.mem.putSlot s.writeBank row k (packEntry x c)).putCnt s.writeBank row
          (s.cntVal s.writeBank row + 1)))) := by
  unfold State.plot at h
  obtain ⟨n, hn, h⟩ := bind_ok h
  obtain ⟨cap, hcap, h⟩ := bind_ok h
  obtain ⟨es, hes, h⟩ := bind_ok h
  obtain ⟨hrow, rfl⟩ := readCnt_eq_ok hn
  obtain ⟨-, rfl⟩ := readCap_eq_ok hcap
  have hact : plotAction (s.cntVal s.writeBank row).toNat (s.capVal row).toNat es x =
      s.plotActionAt row x := by
    unfold State.plotActionAt
    unfold State.scannedEntries at hes
    split at hes
    · next hfull => rw [plotAction_full es x hfull, plotAction_full _ x hfull]
    · rw [readEntries_eq_ok hes, State.rowEntries, List.range_eq_range']
  rw [hact] at h
  refine ⟨hrow, ?_⟩
  split at h
  · next ha => cases h; exact .inl ⟨ha, rfl⟩
  · next k ha =>
    obtain ⟨⟨_, hk⟩, rfl⟩ := writeSlot_eq_ok h
    exact .inr (.inl ⟨k, ha, hk, rfl⟩)
  · next k ha =>
    obtain ⟨u, hu, h⟩ := bind_ok h
    obtain ⟨⟨_, hk⟩, rfl⟩ := writeSlot_eq_ok hu
    obtain ⟨_, rfl⟩ := writeCnt_eq_ok h
    exact .inr (.inr ⟨k, ha, hk, rfl⟩)

/-- A Plot whose row is in the space, and whose capacity is at most CAP_MAX, meets no fault. -/
theorem plot_ok {s : State} {row : Nat} (x : BitVec 10) (c : Colour) (hrow : row < s.build.rowsMax)
    (hcap : (s.capVal row).toNat ≤ s.build.capMax) : ∃ t, s.plot row x c = .ok t := by
  unfold State.plot
  simp only [State.readCnt, State.readCap, hrow, if_true, ok_bind]
  by_cases hfull : (s.capVal row).toNat ≤ (s.cntVal s.writeBank row).toNat
  · simp [State.scannedEntries, hfull, plotAction_full]
  · have hcnt : (s.cntVal s.writeBank row).toNat ≤ s.build.capMax := by omega
    simp only [State.scannedEntries, hfull, if_false, readEntries_row hrow hcnt, ok_bind]
    unfold plotAction
    simp only [hfull, if_false]
    cases hk : (s.rowEntries s.writeBank row).findIdx? (fun e => entryX e == x) with
    | none =>
      have : (s.cntVal s.writeBank row).toNat < s.build.capMax := by omega
      simp [State.writeSlot, State.writeCnt, hrow, this]
    | some k =>
      obtain ⟨hlt, _⟩ := List.findIdx?_eq_some_iff_findIdx_eq.mp hk
      have : k < s.build.capMax := by simp [State.rowEntries] at hlt; omega
      simp [State.writeSlot, hrow, this]

/-! ### Lane steps (41_mapper.md R143 to R148) -/

/-- What a sample is, when all four reads are inside the table's space. -/
theorem laneSample_eq_ok {s : State} {h : LaneId} {p : Sample} (hp : s.laneSample h = .ok p) :
    p = { x := fadd (s.lutVal (s.cfg.indices (s.lane h)).1) (s.lutVal (s.cfg.indices (s.lane h)).2.1)
          y := fadd (s.lutVal ((s.cfg.indices (s.lane h)).1 + s.cfg.quarter))
                 (s.lutVal ((s.cfg.indices (s.lane h)).2.1 + s.cfg.quarter))
          c := s.cfg.colour (s.lane h).i (s.lane h).j } := by
  unfold State.laneSample at hp
  obtain ⟨_, h1, hp⟩ := bind_ok hp
  obtain ⟨_, h2, hp⟩ := bind_ok hp
  obtain ⟨_, h3, hp⟩ := bind_ok hp
  obtain ⟨_, h4, hp⟩ := bind_ok hp
  obtain ⟨-, rfl⟩ := readLut_eq_ok h1
  obtain ⟨-, rfl⟩ := readLut_eq_ok h2
  obtain ⟨-, rfl⟩ := readLut_eq_ok h3
  obtain ⟨-, rfl⟩ := readLut_eq_ok h4
  cases hp; rfl

/-- The four reads meet no fault when both indices are a quarter below the table's depth. -/
theorem laneSample_ok {s : State} {h : LaneId}
    (ha : (s.cfg.indices (s.lane h)).1 + s.cfg.quarter < s.build.lutDepth)
    (hb : (s.cfg.indices (s.lane h)).2.1 + s.cfg.quarter < s.build.lutDepth) :
    ∃ p, s.laneSample h = .ok p := by
  simp only [State.laneSample, readLut_ok ha, readLut_ok hb,
    readLut_ok (show (s.cfg.indices (s.lane h)).1 < s.build.lutDepth by omega),
    readLut_ok (show (s.cfg.indices (s.lane h)).2.1 < s.build.lutDepth by omega), ok_bind]
  exact ⟨_, rfl⟩

/-- Everything `Emit` can do: a Plot of a sample in the grid, or RANGE (41_mapper.md R147). -/
theorem emit_cases {s t : State} {p : Sample} (h : s.emit p = .ok t) :
    (s.cfg.inGrid p = true ∧ s.plot (ftruncU p.y) (BitVec.ofNat 10 (ftruncU p.x)) p.c = .ok t) ∨
    (s.cfg.inGrid p = false ∧ t = s.raise .range) := by
  unfold State.emit at h
  split at h
  · exact .inl ⟨‹_›, h⟩
  · next hg => cases h; exact .inr ⟨by simpa using hg, rfl⟩

/-- Everything an iteration step can do (41_mapper.md R143). -/
theorem iterationStep_cases {h : LaneId} {s t : State} (ht : iterationStep h s = .next t) :
    ∃ p, s.laneSample h = .ok p ∧
      ((s.raiseNumIf (s.cfg.indices (s.lane h)).2.2).setLane h ((s.lane h).iterated p)).emit p =
        .ok t := by
  obtain ⟨p, hp, ht⟩ := orFault_next ht
  obtain ⟨u, hu, ht⟩ := orFault_next ht
  cases ht
  exact ⟨p, hp, hu⟩

/-- Everything an end-of-curve step does (41_mapper.md R148). -/
theorem endOfCurveStep_cases {h : LaneId} {s t : State} (ht : endOfCurveStep h s = .next t) :
    (s.cfg.lastCurve h (s.lane h) = true ∧
      t = (s.setLane h (s.cfg.nextCurve (s.lane h))).setFlag (busyBit h) false) ∨
    (s.cfg.lastCurve h (s.lane h) = false ∧ t = s.setLane h (s.cfg.nextCurve (s.lane h))) := by
  unfold endOfCurveStep at ht
  simp only [Host.Outcome.next.injEq] at ht
  split at ht
  · exact .inl ⟨‹_›, ht.symm⟩
  · next hl => exact .inr ⟨by simpa using hl, ht.symm⟩

/-- Everything a lane's turn can be (41_mapper.md R142). -/
theorem laneStep_cases {h : LaneId} {s t : State} (ht : laneStep h s = .next t) :
    (s.busy h = false ∧ t = s) ∨
    (s.busy h = true ∧ (s.lane h).j.toNat < s.cfg.iterCount.toNat ∧ iterationStep h s = .next t) ∨
    (s.busy h = true ∧ s.cfg.iterCount.toNat ≤ (s.lane h).j.toNat ∧
      endOfCurveStep h s = .next t) := by
  unfold laneStep at ht
  split at ht
  · split at ht
    · exact .inr (.inl ⟨‹_›, ‹_›, ht⟩)
    · exact .inr (.inr ⟨‹_›, by omega, ht⟩)
  · next hb => cases ht; exact .inl ⟨by simpa using hb, rfl⟩

/-! ### Commands -/

/-- Everything CFGW can do (40_config.md R122). -/
theorem execCfgw_cases {reg : BitVec 4} {value : BitVec 32} {s t : State}
    (h : execCfgw reg value s = .next t) :
    t = (s.raise .ill).accept .h ∨ t = (s.raise .state).accept .h ∨
    t = (s.raise .range).accept .h ∨
    (s.mode = .cfg ∧ reg.toNat ≤ lastCfgReg ∧ legalCfg s.build reg value = true ∧
      t = ({ s with cfg := s.cfg.write reg value } : State).accept .h) := by
  unfold execCfgw at h
  split at h
  · exact .inl (reject_next.mp h)
  · rcases inMode_next h with ⟨hm, h⟩ | ⟨_, h⟩
    · split at h
      · cases h; exact .inr (.inr (.inr ⟨hm, by omega, ‹_›, rfl⟩))
      · exact .inr (.inr (.inl (reject_next.mp h)))
    · exact .inr (.inl h)

/-- Everything LUTW can do (40_config.md R123). -/
theorem execLutw_cases {idx : BitVec 17} {value : F32} {s t : State}
    (h : execLutw idx value s = .next t) :
    t = (s.raise .state).accept .h ∨ t = (s.raise .range).accept .h ∨
    (s.mode = .cfg ∧ idx.toNat < s.build.lutDepth ∧
      t = (s.setMem { s.mem with lut := cellsPut s.mem.lut idx.toNat value }).accept .h) := by
  rcases inMode_next h with ⟨hm, h⟩ | ⟨_, h⟩
  · split at h
    · exact .inr (.inl (reject_next.mp h))
    · obtain ⟨u, hu, h⟩ := orFault_next h
      obtain ⟨hk, rfl⟩ := writeLut_eq_ok hu
      cases h; exact .inr (.inr ⟨hm, hk, rfl⟩)
  · exact .inl h

/-- Everything CAPW can do (40_config.md R124). -/
theorem execCapw_cases {row : BitVec 10} {cap : BitVec 11} {s t : State}
    (h : execCapw row cap s = .next t) :
    t = (s.raise .state).accept .h ∨ t = (s.raise .range).accept .h ∨
    (s.mode = .cfg ∧ row.toNat < s.build.rowsMax ∧ cap.toNat ≤ s.build.capMax ∧
      t = (s.setMem { s.mem with cap := cellsPutZ s.mem.cap row.toNat cap }).accept .h) := by
  rcases inMode_next h with ⟨hm, h⟩ | ⟨_, h⟩
  · split at h
    · exact .inr (.inl (reject_next.mp h))
    · next hr =>
      obtain ⟨u, hu, h⟩ := orFault_next h
      obtain ⟨hk, rfl⟩ := writeCap_eq_ok hu
      cases h; exact .inr (.inr ⟨hm, hk, by omega, rfl⟩)
  · exact .inl h

/-- Everything LOCK can do (40_config.md R125). -/
theorem execLock_cases {s t : State} (h : execLock s = .next t) :
    t = (s.raise .state).accept .h ∨
    (s.mode = .cfg ∧ t = (s.setFlag modeBit true).accept .h) := by
  rcases inMode_next h with ⟨hm, h⟩ | ⟨_, h⟩
  · cases h; exact .inr ⟨hm, rfl⟩
  · exact .inl h

/-- Everything PLOT can do (42_slots.md R172). -/
theorem execPlot_cases {row x : BitVec 10} {c : Colour} {s t : State}
    (h : execPlot row x c s = .next t) :
    t = (s.raise .state).accept .h ∨ t = (s.raise .range).accept .h ∨
    (s.mode = .run ∧ row.toNat < s.cfg.pixelSize.toNat ∧ x.toNat < s.cfg.pixelSize.toNat ∧
      ∃ u, s.plot row.toNat x c = .ok u ∧ t = u.accept .h) := by
  rcases inMode_next h with ⟨hm, h⟩ | ⟨_, h⟩
  · split at h
    · exact .inr (.inl (reject_next.mp h))
    · obtain ⟨u, hu, h⟩ := orFault_next h
      cases h; exact .inr (.inr ⟨hm, by omega, by omega, u, hu, rfl⟩)
  · exact .inl h

/-- Everything CLEAR can do (42_slots.md R173). -/
theorem execClear_cases {s t : State} (h : execClear s = .next t) :
    t = (s.raise .state).accept .h ∨
    (s.mode = .run ∧ s.anyBusy = false ∧
      t = (s.setMem (s.mem.clearCounts s.writeBank s.build.rowsMax)).accept .h) := by
  rcases inMode_next h with ⟨hm, h⟩ | ⟨_, h⟩
  · split at h
    · exact .inl (reject_next.mp h)
    · next hb => cases h; exact .inr ⟨hm, by simpa using hb, rfl⟩
  · exact .inl h

/-- Everything GEN can do (41_mapper.md R141). -/
theorem execGen_cases {g : LaneId} {time : F32} {s t : State} (h : execGen g time s = .next t) :
    t = (s.raise .state).accept .h ∨
    (s.mode = .run ∧ s.busy g = false ∧
      t = ((s.setLane g (s.cfg.laneStart g time)).setFlag (busyBit g)
        (decide (s.cfg.halfLo g < s.cfg.halfHi g))).accept .h) := by
  rcases inMode_next h with ⟨hm, h⟩ | ⟨_, h⟩
  · split at h
    · exact .inl (reject_next.mp h)
    · next hb => cases h; exact .inr ⟨hm, by simpa using hb, rfl⟩
  · exact .inl h

/-- Everything JOIN can do (43_sync_scanout.md R190). -/
theorem execJoin_cases {s t : State} (h : execJoin s = .next t) :
    t = (s.raise .state).accept .h ∨
    (s.mode = .run ∧ s.anyBusy = false ∧ t = s.accept .h) ∨
    (s.mode = .run ∧ s.anyBusy = true ∧ t = s) := by
  rcases inMode_next h with ⟨hm, h⟩ | ⟨_, h⟩
  · unfold State.holdUntil at h
    split at h
    · next hb => cases h; exact .inr (.inl ⟨hm, by simpa using hb, rfl⟩)
    · next hb => cases h; exact .inr (.inr ⟨hm, by simpa using hb, rfl⟩)
  · exact .inl h

/-- Everything SWAP can do (43_sync_scanout.md R191). -/
theorem execSwap_cases {s t : State} (h : execSwap s = .next t) :
    t = (s.raise .state).accept .h ∨
    (s.mode = .run ∧ s.swapReady = true ∧
      t = ((s.setFlag wbBit (!s.flag wbBit)).setFlag vspBit false).accept .h) ∨
    (s.mode = .run ∧ s.swapReady = false ∧ t = s) := by
  rcases inMode_next h with ⟨hm, h⟩ | ⟨_, h⟩
  · unfold State.holdUntil at h
    split at h
    · next hb => cases h; exact .inr (.inl ⟨hm, by simpa using hb, rfl⟩)
    · next hb => cases h; exact .inr (.inr ⟨hm, by simpa using hb, rfl⟩)
  · exact .inl h

/-- Everything SLINE can do (43_sync_scanout.md R193). -/
theorem execSline_cases {row : BitVec 10} {s t : State} (h : execSline row s = .next t) :
    (s.cfg.pixelSize.toNat ≤ row.toNat ∧ t = ((s.respondS [0]).raise .range).accept .s) ∨
    (row.toNat < s.cfg.pixelSize.toNat ∧ row.toNat < s.build.rowsMax ∧
      t = (s.respondS (countWord (s.cntVal s.displayBank row.toNat) ::
        s.rowEntries s.displayBank row.toNat)).accept .s) := by
  unfold execSline at h
  split at h
  · exact .inl ⟨‹_›, reject_next.mp h⟩
  · obtain ⟨n, hn, h⟩ := orFault_next h
    obtain ⟨es, hes, h⟩ := orFault_next h
    obtain ⟨hrow, rfl⟩ := readCnt_eq_ok hn
    cases h
    refine .inr ⟨by omega, hrow, ?_⟩
    rw [readEntries_eq_ok hes, State.rowEntries, List.range_eq_range']

end Sys2Proof.Machine
end

