-- ==== Sys2Proof/Laws/PerInstr.lean ====
section
/-! SUPPORT. Per-instruction families (LAWS.json). -/

namespace Sys2Proof.Laws.EncodedRow

/-- The word of a command is an instance of its row of 30_encoding.md R93: the row of its opcode
exists, belongs to its port, and `w & mask = match`. -/
def Statement (i : Instr) : Prop :=
  ∃ r, rowOf i.op = some r ∧ r.port = i.port ∧ encode i &&& r.mask = r.pattern

theorem nop : Statement .nop := by
  exact ⟨_, rfl, rfl, by decide⟩

theorem cfgw (reg : BitVec 4) (value : BitVec 32) : Statement (.cfgw reg value) := by
  refine ⟨_, rfl, rfl, ?_⟩
  apply BitVec.eq_of_getLsbD_eq; intro k hk
  interval_cases k <;> simp [encode, Instr.op, Instr.encA, Instr.encD]

theorem lutw (idx : BitVec 17) (value : F32) : Statement (.lutw idx value) := by
  refine ⟨_, rfl, rfl, ?_⟩
  apply BitVec.eq_of_getLsbD_eq; intro k hk
  interval_cases k <;> simp [encode, Instr.op, Instr.encA, Instr.encD]

theorem capw (row : BitVec 10) (cap : BitVec 11) : Statement (.capw row cap) := by
  refine ⟨_, rfl, rfl, ?_⟩
  apply BitVec.eq_of_getLsbD_eq; intro k hk
  interval_cases k <;> simp [encode, Instr.op, Instr.encA, Instr.encD]

theorem lock : Statement .lock := by
  exact ⟨_, rfl, rfl, by decide⟩

theorem stat : Statement .stat := by
  exact ⟨_, rfl, rfl, by decide⟩

theorem clear : Statement .clear := by
  exact ⟨_, rfl, rfl, by decide⟩

theorem plot (row x : BitVec 10) (colour : Colour) : Statement (.plot row x colour) := by
  refine ⟨_, rfl, rfl, ?_⟩
  apply BitVec.eq_of_getLsbD_eq; intro k hk
  interval_cases k <;> simp [encode, Instr.op, Instr.encA, Instr.encD]

theorem gen (h : LaneId) (time : F32) : Statement (.gen h time) := by
  refine ⟨_, rfl, rfl, ?_⟩
  cases h
  all_goals
    apply BitVec.eq_of_getLsbD_eq; intro k hk
    interval_cases k <;> simp [encode, Instr.op, Instr.encA, Instr.encD, LaneId.bit]

theorem join : Statement .join := by
  exact ⟨_, rfl, rfl, by decide⟩

theorem swap : Statement .swap := by
  exact ⟨_, rfl, rfl, by decide⟩

theorem sline (row : BitVec 10) : Statement (.sline row) := by
  refine ⟨_, rfl, rfl, ?_⟩
  apply BitVec.eq_of_getLsbD_eq; intro k hk
  interval_cases k <;> simp [encode, Instr.op, Instr.encA, Instr.encD]

theorem vsync : Statement .vsync := by
  exact ⟨_, rfl, rfl, by decide⟩

end Sys2Proof.Laws.EncodedRow
end

