-- ==== Sys2Proof/Tests/Slice0.lean ====
section
/-! SUPPORT. Tests with expected results from 95_test_vectors.md, 30_encoding.md R102 and the worked
examples of the rules, and one witness per obligation that has hypotheses. -/

namespace Sys2Proof.Tests

open Sys2Proof.Machine

/-- The step went on, to a state that passes `p`. -/
def nextIs (o : Out) (p : State → Bool) : Bool :=
  match o with
  | .next t => p t
  | _ => false

/-- One step that accepts the word `w`. -/
def after (s : State) (w : Nat) (p : State → Bool) : Bool := nextIs (step (s.withFetchWord 64 w)) p

/-! ### States -/

/-- The registers of REF4 (95_test_vectors.md section 2). -/
def ref4Cfg : CfgRegs :=
  { log2n := 2, pixelSize := 16, curveCount := 16, iterCount := 4, redShift := 2,
    idxScale := 0x3E800000, da1 := 0x40800000, da2 := 0x40000000, a1Start0 := 0,
    a1Start1 := 0x41000000, a2Start0 := 0, a2Start1 := 0x40800000 }

/-- The table of REF4. -/
def ref4Lut : Cells 32 :=
  [(0, 0x40800000), (1, 0x40E00000), (2, 0x40800000), (3, 0x3F800000), (4, 0x40800000)]

/-- The capacities of REF4. -/
def ref4Cap : Cells 11 :=
  [(0, 2), (1, 4), (2, 4), (3, 6), (4, 6), (5, 8), (6, 8), (7, 8), (8, 8), (9, 8), (10, 8),
   (11, 6), (12, 6), (13, 4), (14, 4), (15, 2)]

/-- REF4 in RUN mode, on an implementation just large enough for it (00_scope.md R5). -/
def ref4 : State :=
  { State.reset with
    build := { rowsMax := 16, capMax := 8, log2nMax := 4 }, cfg := ref4Cfg, status := 1,
    mem := { lut := ref4Lut, cap := ref4Cap, bank0 := Bank.empty, bank1 := Bank.empty } }

/-- REF4 with both lanes just started at time 0 (V-M1). -/
def both : State :=
  { ref4 with
    status := 0x31
    lane0 := { x := 0x41000000, y := 0x41000000, a1 := 0, a2 := 0, i := 0, j := 0 }
    lane1 := { x := 0x41000000, y := 0x41000000, a1 := 0x41000000, a2 := 0x40800000,
               i := 8, j := 0 } }

/-- The start of V-S1, with the given count and entries of row 3 in bank 0. -/
def slots (cnt : Cells 11) (slot : Cells 16) : State :=
  { ref4 with
    cfg := { ref4Cfg with pixelSize := 8 }
    mem := { lut := ref4Lut, cap := [(3, 2), (4, 1)],
             bank0 := { cnt := cnt, slot := slot }, bank1 := Bank.empty } }

def slots0 : State := slots [] []
def slots1 : State := slots [(3, 1)] [(3072, 0x014F)]
def slots2 : State := slots [(3, 2)] [(3072, 0x014F), (3073, 0x01F1)]

/-- Bank 1 is the write bank, bank 0 shows the row of V-Y8. -/
def shown : State :=
  { slots [(3, 2)] [(3072, 0x0170), (3073, 0x0271)] with status := 3 }

/-- The reset state on the small implementation. -/
def small : State := { State.reset with build := ref4.build }

theorem test_ref4_inv : Inv ref4 :=
  ⟨by decide, by decide, by decide, by decide, by decide, fun b => by cases b <;> decide,
   by decide, by decide, fun h => by cases h <;> decide⟩

theorem test_both_inv : Inv both :=
  ⟨by decide, by decide, by decide, by decide, by decide, fun b => by cases b <;> decide,
   by decide, by decide, fun h => by cases h <;> decide⟩

theorem test_slots0_inv : Inv slots0 :=
  ⟨by decide, by decide, by decide, by decide, by decide, fun b => by cases b <;> decide,
   by decide, by decide, fun h => by cases h <;> decide⟩

theorem test_slots1_inv : Inv slots1 :=
  ⟨by decide, by decide, by decide, by decide, by decide, fun b => by cases b <;> decide,
   by decide, by decide, fun h => by cases h <;> decide⟩

theorem test_slots2_inv : Inv slots2 :=
  ⟨by decide, by decide, by decide, by decide, by decide, fun b => by cases b <;> decide,
   by decide, by decide, fun h => by cases h <;> decide⟩

theorem test_shown_inv : Inv shown :=
  ⟨by decide, by decide, by decide, by decide, by decide, fun b => by cases b <;> decide,
   by decide, by decide, fun h => by cases h <;> decide⟩

/-- The invariant does not read the ports and turns. -/
theorem inv_of_inputs {s : State} (h : Inv s) (ph ps : Port) (ts : List Turn) (n : Nat) :
    Inv { s with portH := ph, portS := ps, turns := ts, ticks := n } :=
  ⟨h.build, h.cfg, h.status, h.memWf, h.memSpace, h.rows, h.cfgEmpty, h.cfgIdle, h.lanes⟩

/-! ### Well-formedness, decoding, encoding (30_encoding.md R102; V-D) -/

theorem test_wellFormed_refuses_reg12 : (Instr.cfgw 12 0).wellFormed = false := by decide
theorem test_wellFormed_refuses_reg15 : (Instr.cfgw 15 0).wellFormed = false := by decide
theorem test_wellFormed_accepts_reg11 : (Instr.cfgw 11 0).wellFormed = true := by decide

theorem test_nop_word : decodeOn .h 0x0000000000000000 = .ok .nop ∧
    encode .nop = 0x0000000000000000 := by decide
theorem test_cfgw_word : decodeOn .h 0x010000053E800000 = .ok (.cfgw 5 0x3E800000) ∧
    encode (.cfgw 1 16) = 0x0100000100000010 := by decide
theorem test_lutw_word : decodeOn .h 0x020140003F800000 = .ok (.lutw 81920 0x3F800000) ∧
    encode (.lutw 3 0x3F800000) = 0x020000033F800000 := by decide
theorem test_capw_word : decodeOn .h 0x0300000000000401 = .ok (.capw 0 1025) ∧
    encode (.capw 1023 1024) = 0x030003FF00000400 := by decide
theorem test_lock_word : decodeOn .h 0x0400000000000000 = .ok .lock ∧
    encode .lock = 0x0400000000000000 := by decide
theorem test_stat_word : decodeOn .h 0x0500000000000000 = .ok .stat ∧
    encode .stat = 0x0500000000000000 := by decide
theorem test_clear_word : decodeOn .h 0x1000000000000000 = .ok .clear ∧
    encode .clear = 0x1000000000000000 := by decide
theorem test_plot_word : decodeOn .h 0x1100000003FFFFFF = .ok (.plot 1023 1023 0x3F) ∧
    encode (.plot 3 5 0x30) = 0x1100000000030170 := by decide
theorem test_gen_word : decodeOn .h 0x120000013F000000 = .ok (.gen .lane1 0x3F000000) ∧
    encode (.gen .lane0 0x3F000000) = 0x120000003F000000 := by decide
theorem test_join_word : decodeOn .h 0x1300000000000000 = .ok .join ∧
    encode .join = 0x1300000000000000 := by decide
theorem test_swap_word : decodeOn .h 0x1400000000000000 = .ok .swap ∧
    encode .swap = 0x1400000000000000 := by decide
theorem test_sline_word : decodeOn .s 0x300003FF00000000 = .ok (.sline 1023) ∧
    encode (.sline 3) = 0x3000000300000000 := by decide
theorem test_vsync_word : decodeOn .s 0x3100000000000000 = .ok .vsync ∧
    encode .vsync = 0x3100000000000000 := by decide

/-- V-D2, V-D3, V-D5, V-D7, V-D9 to V-D12, V-X6. -/
theorem test_reserved_bits_and_registers :
    decodeOn .h 0x0100000C00000000 = .error .reservedRegister ∧
    decodeOn .h 0x0100001000000000 = .error .reservedBits ∧
    decodeOn .h 0x0202000000000000 = .error .reservedBits ∧
    decodeOn .h 0x0300000000000800 = .error .reservedBits ∧
    decodeOn .h 0x1100000004000000 = .error .reservedBits ∧
    decodeOn .h 0x1100000100030170 = .error .reservedBits ∧
    decodeOn .h 0x1200000200000000 = .error .reservedBits ∧
    decodeOn .h 0x0000000000000001 = .error .reservedBits ∧
    decodeOn .h 0x0100001100000010 = .error .reservedBits := by decide

/-- V-D13 to V-D15, V-D17, V-D18. -/
theorem test_reserved_opcodes_and_ports :
    decodeOn .h 0x0600000000000000 = .error .reservedOpcode ∧
    decodeOn .h 0xFF00000000000000 = .error .reservedOpcode ∧
    decodeOn .h 0x3100000000000000 = .error .wrongPort ∧
    decodeOn .s 0x0500000000000000 = .error .wrongPort ∧
    decodeOn .s 0x3000040000000000 = .error .reservedBits ∧
    decodeOn .s 0x3000000000000001 = .error .reservedBits := by decide

/-- 95_test_vectors.md section 4: PLOT 3, 5, 0x30 is the bytes 70 01 03 00 00 00 00 11. -/
theorem test_serialised_plot :
    decodeBytes [0x70, 0x01, 0x03, 0x00, 0x00, 0x00, 0x00, 0x11] = .ok (.plot 3 5 0x30, []) ∧
    toBytes 2 (0x0230 : BitVec 16) = [0x30, 0x02] := by decide

theorem test_table_word :
    decodeTableWord 64 0x1200000000000000 = some (.gen .lane0 0) ∧
    decodeTableWord 64 0x3000000000000000 = some (.sline 0) ∧
    decodeTableWord 64 0x2000000000000000 = none := by decide

/-- 30_encoding.md R100, R102. -/
theorem test_assembler :
    assembleLine "CFGW IDX_SCALE, 0.25".toList = some [(.h, .cfgw 5 0x3E800000)] ∧
    assembleLine "S: SLINE 3".toList = some [(.s, .sline 3)] ∧
    assembleLine "PLOT 3, 5, 0x30".toList = some [(.h, .plot 3 5 0x30)] := by decide

/-- 30_encoding.md R101. -/
theorem test_assembler_frame : assembleLine "FRAME 0.5 ; next".toList =
    some [(.h, .clear), (.h, .gen .lane0 0x3F000000), (.h, .gen .lane1 0x3F000000), (.h, .join),
      (.h, .swap)] := by decide

/-! ### Binary32 (V-N) -/

theorem test_fadd : -- V-N1 to V-N3, V-N5
    fadd 0x3DCCCCCD 0x3E4CCCCD = 0x3E99999A ∧ fadd 0x4B800000 0x3F800000 = 0x4B800000 ∧
    fadd 0x4B800000 0x40400000 = 0x4B800002 ∧ fadd 0x40AADC4D 0x402A4767 = 0x41000000 := by decide
theorem test_fadd_special : -- V-N6 to V-N9; 00_scope.md R8
    fadd 0x7FC00001 0x41000000 = 0x7FC00000 ∧ fadd 0x7F800000 0xFF800000 = 0x7FC00000 ∧
    fadd 0 0x80000000 = 0 ∧ fadd 0x80000000 0x80000000 = 0x80000000 ∧
    fadd 0x501502F9 0x41000000 = 0x501502F9 := by decide
theorem test_fmul : fmul 0x3DCCCCCD 0x41200000 = 0x3F800000 := by decide +kernel -- V-N4
theorem test_f2i : -- V-N10 to V-N15
    f2i 0xBFC00000 = (0xFFFFFFFF, false) ∧ f2i 0x4F32D05E = (0x7FFFFFFF, true) ∧
    f2i 0x7FC00000 = (0, true) ∧ f2i 0xCF000000 = (0x80000000, false) ∧
    f2i 0xCF000001 = (0x80000000, true) ∧ f2i 0x4EFFFFFF = (2147483520, false) := by decide
theorem test_f2i_truncates : -- V-N16, V-N17
    f2i 0x3F79999A = (0, false) ∧ f2i 0xBF79999A = (0, false) ∧
    f2i 0x417FFFFF = (15, false) := by decide
theorem test_compare : -- V-N18 to V-N20
    flt 0x417FFFFF 0x41800000 = true ∧ flt 0x41800000 0x41800000 = false ∧
    fge 0x80000000 0 = true ∧ fge 0x7FC00000 0 = false ∧ flt 0x7FC00000 0x41800000 = false := by
  decide

/-! ### Operands of the mapper (V-C5, V-C6, V-I, V-K, V-M6) -/

theorem test_centre : { ref4Cfg with pixelSize := 1024 }.centre = 0x44000000 ∧
    { ref4Cfg with pixelSize := 15 }.centre = 0x40F00000 := by decide +kernel
theorem test_index : -- V-I1, V-I2, V-I4 to V-I8
    ref4Cfg.index 0 0x41000000 = (2, false) ∧ ref4Cfg.index 0xC1000000 0x40000000 = (3, false) ∧
    ref4Cfg.index 0 0xC079999A = (0, false) ∧ ref4Cfg.index 0 0xC0800000 = (3, false) ∧
    ref4Cfg.index 0x42C80000 0x40400000 = (1, false) ∧
    ref4Cfg.index 0x501502F9 0x41000000 = (3, true) ∧
    ref4Cfg.index 0x7FC00000 0x41000000 = (0, true) := by decide +kernel
theorem test_colour : -- V-K
    ref4Cfg.colour 12 0 = 0x23 ∧ { ref4Cfg with redShift := 3 }.colour 328 300 = 0x29 ∧
    { ref4Cfg with redShift := 14 }.colour 65524 511 = 0x0F ∧
    colourGreen (ref4Cfg.colour 0 127) = 0 ∧ colourGreen (ref4Cfg.colour 0 128) = 1 := by decide
theorem test_inGrid : -- V-M6
    ref4Cfg.inGrid ⟨0x80000000, 1, 0⟩ = true ∧ ref4Cfg.inGrid ⟨0x417FFFFF, 0x41700000, 0⟩ = true ∧
    ref4Cfg.inGrid ⟨0x41800000, 0x41000000, 0⟩ = false ∧
    ref4Cfg.inGrid ⟨0xBF000000, 0x41000000, 0⟩ = false ∧
    ref4Cfg.inGrid ⟨0x41000000, 0x7FC00000, 0⟩ = false ∧
    ref4Cfg.inGrid ⟨0x7F800000, 0x41000000, 0⟩ = false := by decide
theorem test_cells : ftruncU 0x80000000 = 0 ∧ ftruncU 1 = 0 ∧ ftruncU 0x417FFFFF = 15 ∧
    ftruncU 0x447FFFFF = 1023 := by decide -- V-M6

/-! ### Commands (V-C, V-S, V-Y, V-X) -/

theorem test_nop : after State.reset 0x0000000000000000 (fun t => t.status == 0) = true := by decide
theorem test_cfgw : after State.reset 0x0100000100000010 (fun t => t.cfg.pixelSize == 16) = true := by
  decide -- R122
theorem test_cfgw_range : after State.reset 0x0100000180000010 -- V-C12
    (fun t => t.status == 0x400 && t.cfg.pixelSize == 1) = true := by decide
theorem test_lutw : after State.reset 0x02013FFF3F800000 -- V-C13
    (fun t => t.lutVal 81919 == 0x3F800000) = true := by decide
theorem test_lutw_in_run_mode : after ref4 0x020140003F800000 -- V-X8
    (fun t => t.status == 0x201) = true := by decide
theorem test_capw : after State.reset 0x030003FF00000400 (fun t => t.capVal 1023 == 1024) = true := by
  decide -- V-C14
theorem test_capw_range : after State.reset 0x0300000000000401 (fun t => t.status == 0x400) = true := by
  decide -- V-D6
theorem test_lock : after State.reset 0x0400000000000000 (fun t => t.status == 1) = true := by decide
theorem test_lock_again : after ref4 0x0400000000000000 (fun t => t.status == 0x201) = true := by
  decide -- V-C16
theorem test_stat : after { ref4 with status := 0x433 } 0x0500000000000000 -- V-C19
    (fun t => t.respH == [0x433] && t.status == 0x433) = true := by decide
theorem test_plot_appends : after slots1 0x11000000000301F1 -- V-S3
    (fun t => t.rowEntries .bank0 3 == [0x014F, 0x01F1]) = true := by decide
theorem test_plot_full_row : after slots2 0x1100000000030157 -- V-S5
    (fun t => t.rowEntries .bank0 3 == [0x014F, 0x01F1] && t.status == 1) = true := by decide
theorem test_clear : after { slots2 with status := 1 } 0x1000000000000000 -- R173
    (fun t => t.cntVal .bank0 3 == 0) = true := by decide
theorem test_clear_spares_display : after shown 0x1000000000000000 -- V-S8
    (fun t => t.cntVal .bank0 3 == 2) = true := by decide
theorem test_gen : after ref4 0x1200000100000000 -- V-M1
    (fun t => t.status == 0x21 && t.lane1 == both.lane1) = true := by decide +kernel
theorem test_gen_no_curves : -- V-M5
    after { ref4 with cfg := { ref4Cfg with curveCount := 0 } } 0x120000013F000000
      (fun t => t.status == 1 && t.lane1.a1 == 0x41080000 && t.lane1.i == 0) = true := by decide
theorem test_join_held : after { ref4 with status := 0x31 } 0x1300000000000000 -- V-Y6
    (fun t => t.status == 0x31 && t.portH.cp == 0) = true := by decide
theorem test_join_in_cfg_mode : after State.reset 0x1300000000000000 -- V-Y7
    (fun t => t.status == 0x200 && t.portH.cp == 1) = true := by decide
theorem test_swap : after { ref4 with status := 5 } 0x1400000000000000 (fun t => t.status == 3) = true := by
  decide -- V-Y3
theorem test_swap_held : after { ref4 with status := 0x15 } 0x1400000000000000 -- V-Y5
    (fun t => t.status == 0x15 && t.portH.cp == 0) = true := by decide
theorem test_sline : after shown 0x3000000300000000 -- V-Y8
    (fun t => t.respS == [0x0002, 0x0170, 0x0271]) = true := by decide
theorem test_sline_range : after slots0 0x3000000800000000 -- V-Y10
    (fun t => t.respS == [0] && t.status == 0x401) = true := by decide
theorem test_vsync : after ref4 0x3100000000000000 (fun t => t.status == 5) = true := by decide
theorem test_vsync_twice : after { ref4 with status := 5 } 0x3100000000000000 -- V-Y2
    (fun t => t.status == 5) = true := by decide
theorem test_reserved_opcode_raises : after State.reset 0x0600000000000000 -- V-X1
    (fun t => t.status == 0x100) = true := by decide

/-! ### Lane steps (V-M2, V-M4; P6) -/

theorem test_iteration : nextIs (laneStep .lane1 both) -- V-M2
    (fun t => t.lane1.x == 0x40A00000 && t.lane1.y == 0x41300000 && t.lane1.j == 1 &&
      t.rowEntries .bank0 11 == [0x0162]) = true := by decide +kernel
theorem test_iteration_lane0 : nextIs (laneStep .lane0 both) -- P2, step 1
    (fun t => t.lane0.x == 0x41000000 && t.lane0.y == 0x40000000 &&
      t.rowEntries .bank0 2 == [0x0230]) = true := by decide +kernel
theorem test_sample0 : both.laneSample .lane0 = .ok ⟨0x41000000, 0x40000000, 0x30⟩ := by
  decide +kernel -- P2
theorem test_sample1 : both.laneSample .lane1 = .ok ⟨0x40A00000, 0x41300000, 0x22⟩ := by
  decide +kernel -- V-M2
theorem test_iteration_num : -- P6(a), first sample
    nextIs (laneStep .lane0
      { both with lane0 := { both.lane0 with a1 := 0x501502F9, a2 := 0x501502F9 } })
      (fun t => t.status == 0x831 && t.rowEntries .bank0 8 == [0x00B0]) = true := by decide +kernel
theorem test_iteration_range : -- P6(c), first sample
    nextIs (laneStep .lane0
      { both with cfg := { ref4Cfg with pixelSize := 8 }
                  lane0 := { both.lane0 with x := 0x40800000, y := 0x40800000 } })
      (fun t => t.status == 0x431 && t.lane0.x == 0x41600000 && t.mem == both.mem) = true := by decide +kernel
theorem test_end_of_curve : -- V-M4
    nextIs (laneStep .lane0 { both with lane0 := { both.lane0 with j := 4 } })
      (fun t => t.busy .lane0 && t.lane0 == ⟨0x41000000, 0x41000000, 0x40800000, 0x40000000, 4, 0⟩) =
      true := by decide +kernel
theorem test_last_end_of_curve : -- V-M4
    nextIs (laneStep .lane0 { both with lane0 := ⟨0, 0, 0x40800000, 0x40000000, 4, 4⟩ })
      (fun t => !t.busy .lane0 && t.lane0.a1 == 0x41000000 && t.lane0.i == 8) = true := by decide

/-! ### Witnesses: states and operands that meet the hypotheses of each obligation -/

theorem exists_of_nextIs {o : Out} {p : State → Bool} (h : nextIs o p = true) :
    ∃ t, o = .next t ∧ p t = true := by
  cases o with
  | next t => exact ⟨t, rfl, h⟩
  | fault _ => cases h
  | refused _ => cases h

/-- Port H presents `w` and the host's turn is due. -/
def hostAt (s : State) (w : Word) : State := { s with portH := ⟨[w], 0⟩, turns := [.host] }

/-- Port S presents `w` and the sink's turn is due. -/
def sinkAt (s : State) (w : Word) : State := { s with portS := ⟨[w], 0⟩, turns := [.sink] }

/-- A turn is due. -/
def turnAt (s : State) (t : Turn) : State := { s with turns := [t] }

theorem witness_DecodeOfEncodeIsTheCommand : (Instr.cfgw 11 0xFFFFFFFF).wellFormed = true := by decide

theorem witness_EncodeOfDecodeIsTheWord :
    decodeOn .h 0x0100000BFFFFFFFF = .ok (.cfgw 11 0xFFFFFFFF) ∧
    decodeOn .s 0x300003FF00000000 = .ok (.sline 1023) := by decide

theorem witness_SerialisedCommandsAreLittleEndian : 7 < 8 ∧ (Instr.plot 3 5 0x30).wellFormed = true := by
  decide

theorem witness_StepRunsTheDecodedCommand :
    ((hostAt ref4 0x1300000000000000).currentTurn = PortId.h.turn ∧
      (hostAt ref4 0x1300000000000000).presented .h = some 0x1300000000000000 ∧
      decodeOn .h 0x1300000000000000 = .ok .join) ∧
    ((sinkAt ref4 0x3100000000000000).currentTurn = PortId.s.turn ∧
      (sinkAt ref4 0x3100000000000000).presented .s = some 0x3100000000000000 ∧
      decodeOn .s 0x3100000000000000 = .ok .vsync) := by decide

theorem witness_OtherTurnsAreLaneStepsIdleOrReset :
    (turnAt both (.lane .lane1)).currentTurn = .lane .lane1 ∧
    ((turnAt ref4 (.lane .lane0)).currentTurn = .lane .lane0 ∧
      (turnAt ref4 (.lane .lane0)).busy .lane0 = false) ∧
    ((turnAt ref4 .sink).currentTurn = PortId.s.turn ∧
      (turnAt ref4 .sink).presented .s = none) ∧
    (turnAt both .resetPin).currentTurn = .resetPin := by decide

theorem witness_IllegalWordOnlyRaisesIll :
    ((sinkAt ref4 0x0500000000000000).currentTurn = PortId.s.turn ∧
      (sinkAt ref4 0x0500000000000000).presented .s = some 0x0500000000000000 ∧
      ∀ r ∈ opcodeMap, r.op = opOf 0x0500000000000000 → r.port ≠ .s) ∧
    ((hostAt ref4 0x0100001100000010).currentTurn = PortId.h.turn ∧
      (hostAt ref4 0x0100001100000010).presented .h = some 0x0100001100000010 ∧
      ∃ r ∈ opcodeMap, r.op = opOf 0x0100001100000010 ∧ r.port = .h ∧
        (0x0100001100000010 : Word) &&& r.mask ≠ r.pattern) ∧
    ((hostAt ref4 0x0100000C00000000).currentTurn = PortId.h.turn ∧
      (hostAt ref4 0x0100000C00000000).presented .h = some 0x0100000C00000000 ∧
      opOf 0x0100000C00000000 = 0x01 ∧
      12 ≤ ((argA 0x0100000C00000000).extractLsb' 0 4).toNat) := by decide

theorem witness_PermissionTableHolds :
    ((hostAt ref4 0x3100000000000000).currentTurn = PortId.h.turn ∧
      (hostAt ref4 0x3100000000000000).presented .h = some 0x3100000000000000 ∧
      decodeWord 0x3100000000000000 = .ok .vsync ∧ permission .vsync .h ref4.mode = .ill) ∧
    ((hostAt ref4 0x0400000000000000).currentTurn = PortId.h.turn ∧
      (hostAt ref4 0x0400000000000000).presented .h = some 0x0400000000000000 ∧
      decodeWord 0x0400000000000000 = .ok .lock ∧ permission .lock .h ref4.mode = .state) ∧
    ((hostAt ref4 0x1000000000000000).currentTurn = PortId.h.turn ∧
      (hostAt ref4 0x1000000000000000).presented .h = some 0x1000000000000000 ∧
      decodeWord 0x1000000000000000 = .ok .clear ∧ permission .clear .h ref4.mode = .ok) := by decide

theorem witness_CfgwWritesItsRegister :
    small.mode = .cfg ∧ (11 : BitVec 4).toNat ≤ 11 ∧ legalCfg small.build 0 2 = true ∧
    legalCfg small.build 0 4 = true ∧ legalCfg small.build 1 16 = true ∧
    legalCfg small.build 2 65528 = true ∧ legalCfg small.build 3 512 = true ∧
    legalCfg small.build 4 14 = true ∧ legalCfg small.build 11 0x7FC00000 = true := by decide

theorem witness_CfgwLegalSetsAndRefusals :
    12 ≤ (12 : BitVec 4).toNat ∧ ((11 : BitVec 4).toNat ≤ 11 ∧ ref4.mode = .run) ∧
    ((0 : BitVec 4).toNat ≤ 11 ∧ small.mode = .cfg ∧ legalCfg small.build 0 5 = false) ∧
    (5 ≤ (5 : BitVec 4).toNat ∧ (5 : BitVec 4).toNat ≤ 11) := by decide

theorem witness_LutwWritesItsElement :
    small.mode = .cfg ∧ (19 : BitVec 17).toNat < small.build.lutDepth := by decide

theorem witness_CapwWritesItsCapacity :
    small.mode = .cfg ∧ (15 : BitVec 10).toNat < small.build.rowsMax ∧
    (8 : BitVec 11).toNat ≤ small.build.capMax := by decide

theorem witness_LutwAndCapwRefusals :
    ref4.mode = .run ∧
    (small.mode = .cfg ∧ small.build.lutDepth ≤ (20 : BitVec 17).toNat) ∧
    (small.mode = .cfg ∧ (small.build.rowsMax : Nat) ≤ (16 : BitVec 10).toNat) ∧
    (small.mode = .cfg ∧ (small.build.capMax : Nat) < (9 : BitVec 11).toNat) := by decide

theorem witness_LockEntersRunMode : small.mode = .cfg ∧ ref4.mode = .run := by decide

theorem witness_StatusWordLayout : Inv both := test_both_inv

theorem witness_PlotChoosesItsAction :
    ((slots2.capVal 3).toNat ≤ (slots2.cntVal slots2.writeBank 3).toNat) ∧
    ((slots1.cntVal slots1.writeBank 3).toNat < (slots1.capVal 3).toNat ∧
      0 < (slots1.cntVal slots1.writeBank 3).toNat ∧
      entryX (slots1.slotVal slots1.writeBank 3 0) = 5 ∧
      (∀ k < 0, entryX (slots1.slotVal slots1.writeBank 3 k) ≠ 5) ∧
      ∀ k < (slots1.cntVal slots1.writeBank 3).toNat,
        entryX (slots1.slotVal slots1.writeBank 3 k) ≠ 7) := by decide

theorem witness_PlotAppendsANewEntry :
    (Inv slots1 ∧ slots1.mode = .run ∧ (3 : BitVec 10).toNat < slots1.cfg.pixelSize.toNat ∧
      (7 : BitVec 10).toNat < slots1.cfg.pixelSize.toNat ∧
      slots1.plotActionAt (3 : BitVec 10).toNat 7 = .append 1) ∧
    slots0.plotActionAt (3 : BitVec 10).toNat 7 = .append 0 :=
  ⟨⟨test_slots1_inv, by decide⟩, by decide⟩

theorem witness_PlotOverwritesInPlace :
    Inv slots1 ∧ slots1.mode = .run ∧ (3 : BitVec 10).toNat < slots1.cfg.pixelSize.toNat ∧
      (5 : BitVec 10).toNat < slots1.cfg.pixelSize.toNat ∧
      slots1.plotActionAt (3 : BitVec 10).toNat 5 = .overwrite 0 :=
  ⟨test_slots1_inv, by decide⟩

theorem witness_PlotToAFullRowIsDropped :
    slots2.mode = .run ∧ (3 : BitVec 10).toNat < slots2.cfg.pixelSize.toNat ∧
    (5 : BitVec 10).toNat < slots2.cfg.pixelSize.toNat ∧
    slots2.cfg.pixelSize.toNat ≤ slots2.build.rowsMax ∧
    (slots2.capVal (3 : BitVec 10).toNat).toNat ≤
      (slots2.cntVal slots2.writeBank (3 : BitVec 10).toNat).toNat := by decide

theorem witness_ClearEmptiesTheWriteBank : slots2.mode = .run ∧ slots2.anyBusy = false := by decide

theorem witness_RunCommandRefusals :
    small.mode = .cfg ∧ (both.mode = .run ∧ both.anyBusy = true) ∧
    (both.mode = .run ∧ both.busy .lane1 = true) ∧
    (slots0.mode = .run ∧ slots0.cfg.pixelSize.toNat ≤ (8 : BitVec 10).toNat) := by decide

theorem witness_RowsOnlyGrowUntilCleared :
    ∃ t, (Inv (hostAt slots1 0x11000000000301F1) ∧
      step (hostAt slots1 0x11000000000301F1) = .next t ∧
      (hostAt slots1 0x11000000000301F1).currentTurn ≠ .resetPin ∧
      ¬ ((hostAt slots1 0x11000000000301F1).currentTurn = .host ∧
        Presents (hostAt slots1 0x11000000000301F1) .h .clear)) ∧
      3 < (slots1.build.rowsMax : Nat) ∧ 0 < (slots1.cntVal slots1.writeBank 3).toNat ∧
      (slots2.capVal 3).toNat ≤ (slots2.cntVal slots2.writeBank 3).toNat := by
  refine ⟨_, ⟨inv_of_inputs test_slots1_inv _ _ _ _, rfl, by decide, ?_⟩, by decide, by decide, by decide⟩
  rintro ⟨_, w, hw, hd⟩
  obtain rfl : (0x11000000000301F1 : Word) = w := Option.some.inj hw
  exact absurd hd (by decide)

theorem witness_GenStartsTheLane :
    (ref4.mode = .run ∧ ref4.busy .lane1 = false) ∧
    (1 ≤ CfgRegs.reset.pixelSize.toNat ∧ CfgRegs.reset.pixelSize.toNat ≤ 1024) ∧
    (1 ≤ { ref4Cfg with pixelSize := 1024 }.pixelSize.toNat ∧
      { ref4Cfg with pixelSize := 1024 }.pixelSize.toNat ≤ 1024) := by decide

theorem witness_IterationStepComputesOneSample :
    Inv both ∧ both.busy .lane1 = true ∧ (both.lane .lane1).j.toNat < both.cfg.iterCount.toNat ∧
    both.cfg.index (both.lane .lane1).a1 (both.lane .lane1).x = (0, false) ∧
    both.cfg.index (both.lane .lane1).a2 (both.lane .lane1).y = (3, false) ∧
    (⟨0x40A00000, 0x41300000, 0x22⟩ : Sample) =
      { x := fadd (both.lutVal 0) (both.lutVal 3)
        y := fadd (both.lutVal (0 + both.cfg.tableSize / 4)) (both.lutVal (3 + both.cfg.tableSize / 4))
        c := both.cfg.colour (both.lane .lane1).i (both.lane .lane1).j } ∧
    both.cfg.inGrid ⟨0x40A00000, 0x41300000, 0x22⟩ = true :=
  ⟨test_both_inv, by decide +kernel⟩

/-- REF4 on a grid of 8, lane 0 just started (P6(c)). -/
def tooSmall : State :=
  { both with cfg := { ref4Cfg with pixelSize := 8 }, status := 0x11
              lane0 := { both.lane0 with x := 0x40800000, y := 0x40800000 } }

theorem test_tooSmall_inv : Inv tooSmall :=
  ⟨by decide, by decide, by decide, by decide, by decide, fun b => by cases b <;> decide,
   by decide, by decide, fun h => by cases h <;> decide⟩

/-- The clause on a sample outside the grid: 14.0 is not below 8. -/
theorem witness_IterationStepComputesOneSample_outside :
    Inv tooSmall ∧ tooSmall.busy .lane0 = true ∧
    (tooSmall.lane .lane0).j.toNat < tooSmall.cfg.iterCount.toNat ∧
    tooSmall.cfg.index (tooSmall.lane .lane0).a1 (tooSmall.lane .lane0).x = (1, false) ∧
    tooSmall.cfg.index (tooSmall.lane .lane0).a2 (tooSmall.lane .lane0).y = (1, false) ∧
    (⟨0x41600000, 0x41000000, 0x30⟩ : Sample) =
      { x := fadd (tooSmall.lutVal 1) (tooSmall.lutVal 1)
        y := fadd (tooSmall.lutVal (1 + tooSmall.cfg.tableSize / 4))
          (tooSmall.lutVal (1 + tooSmall.cfg.tableSize / 4))
        c := tooSmall.cfg.colour (tooSmall.lane .lane0).i (tooSmall.lane .lane0).j } ∧
    tooSmall.cfg.inGrid ⟨0x41600000, 0x41000000, 0x30⟩ = false :=
  ⟨test_tooSmall_inv, by decide +kernel⟩

theorem witness_EndOfCurveStepAdvances :
    { both with lane0 := { both.lane0 with j := 4 } }.busy .lane0 = true ∧
    ({ both with lane0 := { both.lane0 with j := 4 } }.lane .lane0).j.toNat =
      both.cfg.iterCount.toNat := by decide

theorem witness_TableIndicesStayInRange :
    (2 ≤ ref4Cfg.log2n.toNat ∧ ref4Cfg.log2n.toNat ≤ 16 ∧
      2 ≤ { ref4Cfg with log2n := 16 }.log2n.toNat ∧ { ref4Cfg with log2n := 16 }.log2n.toNat ≤ 16) ∧
    (fge (fmul (fadd 0 0xC0800000) ref4Cfg.idxScale) 0xCF000000 = true ∧ -- V-I5: -1.0
      flt (fmul (fadd 0 0xC0800000) ref4Cfg.idxScale) 0x4F000000 = true) ∧
    (fge (fmul (fadd 0xD0000000 0) ref4Cfg.idxScale) 0xCF000000 = true ∧ -- -2^31
      flt (fmul (fadd 0xD0000000 0) ref4Cfg.idxScale) 0x4F000000 = true) ∧
    isNaN (fmul (fadd 0x7FC00000 0) ref4Cfg.idxScale) = true ∧
    fge (fmul (fadd 0x501502F9 0) ref4Cfg.idxScale) 0x4F000000 = true ∧
    flt (fmul (fadd 0xD01502F9 0) ref4Cfg.idxScale) 0xCF000000 = true := by decide +kernel

theorem test_both_table_in_bounds : TableInBounds both 0x3F800000 0x40E00000 := -- V-T3
  ⟨by decide, by decide, by decide, by decide, by decide⟩

theorem witness_BoundedTableNeverRaisesRange :
    ∃ t, Inv both ∧ TableInBounds both 0x3F800000 0x40E00000 ∧ both.busy .lane0 = true ∧
      (both.lane .lane0).j.toNat < both.cfg.iterCount.toNat ∧ laneStep .lane0 both = .next t := by
  obtain ⟨t, ht, _⟩ := exists_of_nextIs test_iteration_lane0
  exact ⟨t, test_both_inv, test_both_table_in_bounds, by decide, by decide, ht⟩

theorem witness_LaneStepCountIsExact :
    (Inv ref4 ∧ ref4.mode = .run ∧ ref4.busy .lane1 = false ∧
      ∃ t, exec (.gen .lane1 0) ref4 = .next t) ∧
    (Inv both ∧ both.busy .lane0 = true ∧ ∃ t, laneStep .lane0 both = .next t) ∧
    (∃ s t, Inv s ∧ s.busy .lane0 = true ∧ laneStep .lane0 s = .next t ∧ t.busy .lane0 = false) := by
  refine ⟨⟨test_ref4_inv, by decide, by decide, _, rfl⟩, ⟨test_both_inv, by decide, ?_⟩,
    { both with lane0 := ⟨0, 0, 0x40800000, 0x40000000, 4, 4⟩ }, _, ?_, by decide, rfl, by decide⟩
  · obtain ⟨t, ht, _⟩ := exists_of_nextIs test_iteration_lane0
    exact ⟨t, ht⟩
  · exact ⟨by decide, by decide, by decide, by decide, by decide, fun b => by cases b <;> decide,
      by decide, by decide, fun h => by cases h <;> decide⟩

theorem witness_LaneStepIgnoresOtherAgents :
    let u := { both with mem := { both.mem with cap := [], bank0 := { cnt := [(11, 1)], slot := [] } },
                         status := 0xF31, lane1 := LaneRegs.reset, portH := ⟨[0], 0⟩ }
    u.build = both.build ∧ u.cfg = both.cfg ∧ u.mem.lut = both.mem.lut ∧ u.epoch = both.epoch ∧
    u.lane .lane0 = both.lane .lane0 ∧ u.busy .lane0 = both.busy .lane0 ∧
    (∃ t, laneStep .lane0 both = .next t) ∧ ∃ t, laneStep .lane0 u = .next t := by
  refine ⟨rfl, rfl, rfl, rfl, rfl, by decide, ?_, ?_⟩
  · obtain ⟨t, ht, _⟩ := exists_of_nextIs test_iteration_lane0
    exact ⟨t, ht⟩
  · obtain ⟨t, ht, _⟩ := exists_of_nextIs (p := fun _ => true) (o := laneStep .lane0
      { both with mem := { both.mem with cap := [], bank0 := { cnt := [(11, 1)], slot := [] } },
                  status := 0xF31, lane1 := LaneRegs.reset, portH := ⟨[0], 0⟩ }) (by decide +kernel)
    exact ⟨t, ht⟩

theorem witness_FaddIsCorrectlyRounded :
    isFinite 0x7F7FFFFF = true ∧ overflowUnits * 2 ^ 0 ≤ (units 0x7F7FFFFF + units 0x7F7FFFFF).natAbs ∧
    isFinite 0x3DCCCCCD = true ∧ isFinite 0x3E4CCCCD = true ∧
    (units 0x3DCCCCCD + units 0x3E4CCCCD).natAbs < overflowUnits * 2 ^ 0 := by decide +kernel

theorem witness_FmulIsCorrectlyRounded :
    isFinite 0x7F7FFFFF = true ∧
    overflowUnits * 2 ^ 149 ≤ (units 0x7F7FFFFF * units 0x7F7FFFFF).natAbs ∧
    isFinite 0x3DCCCCCD = true ∧ isFinite 0x41200000 = true ∧
    (units 0x3DCCCCCD * units 0x41200000).natAbs < overflowUnits * 2 ^ 149 := by decide +kernel

theorem witness_NonFiniteSumsAndProducts :
    isNaN 0x7F800001 = true ∧ (isFinite 0x80000000 = true ∧ units 0x80000000 = 0) ∧
    (isFinite 0x00000001 = true ∧ units 0x00000001 ≠ 0) := by decide

theorem witness_F2iTruncatesAndSaturates :
    isNaN 0xFFFFFFFF = true ∧ fge 0x4F000000 0x4F000000 = true ∧ flt 0xCF000001 0xCF000000 = true ∧
    (fge 0xCF000000 0xCF000000 = true ∧ flt 0xCF000000 0x4F000000 = true) ∧
    (fge 0x4EFFFFFF 0xCF000000 = true ∧ flt 0x4EFFFFFF 0x4F000000 = true) := by decide

theorem witness_ComparisonsFollowTheValues :
    isFinite 0x80000000 = true ∧ isFinite 0x7F7FFFFF = true ∧ isNaN 0x7FC00000 = true := by decide

theorem witness_JoinWaitsForBothLanes :
    (ref4.mode = .run ∧ ref4.busy .lane0 = false ∧ ref4.busy .lane1 = false) ∧
    (both.mode = .run ∧ both.busy .lane1 = true) := by decide

theorem witness_SwapExchangesTheBanks :
    ({ ref4 with status := 5 }.mode = .run ∧ { ref4 with status := 5 }.busy .lane0 = false ∧
      { ref4 with status := 5 }.busy .lane1 = false ∧ { ref4 with status := 5 }.vsp = true) ∧
    (ref4.mode = .run ∧ ref4.vsp = false) ∧ both.busy .lane0 = true := by decide

theorem witness_SlineRespondsTheDisplayRow :
    Inv shown ∧ (7 : BitVec 10).toNat < shown.cfg.pixelSize.toNat ∧
    shown.cfg.pixelSize.toNat ≤ (8 : BitVec 10).toNat :=
  ⟨test_shown_inv, by decide⟩

theorem witness_ResetPinResets :
    (turnAt (hostAt both 0x1300000000000000) .resetPin).currentTurn = .resetPin ∧
    (turnAt (hostAt both 0x1300000000000000) .resetPin).presented .h ≠ none ∧
    (turnAt (hostAt both 0x1300000000000000) .resetPin).presented .s = none := by decide

theorem witness_EveryStepKeepsTheInvariant :
    ∃ t, Inv (hostAt slots1 0x11000000000301F1) ∧ step (hostAt slots1 0x11000000000301F1) = .next t :=
  ⟨_, inv_of_inputs test_slots1_inv _ _ _ _, rfl⟩

theorem witness_NoStepEverStops : Inv (sinkAt shown 0x3000000300000000) :=
  inv_of_inputs test_shown_inv _ _ _ _

theorem witness_OnlyResetClearsErrorsAndMode :
    ∃ t, step (sinkAt { ref4 with status := 0x701 } 0x3100000000000000) = .next t ∧
      (sinkAt { ref4 with status := 0x701 } 0x3100000000000000).currentTurn ≠ .resetPin ∧
      { ref4 with status := 0x701 }.err .ill = true ∧ { ref4 with status := 0x701 }.mode = .run :=
  ⟨_, rfl, by decide⟩

theorem witness_ConfigurationIsFrozenInRunMode :
    ∃ t, step (hostAt ref4 0x0100000100000010) = .next t ∧
      (hostAt ref4 0x0100000100000010).currentTurn ≠ .resetPin ∧
      (hostAt ref4 0x0100000100000010).mode = .run :=
  ⟨_, rfl, by decide⟩

theorem witness_DisplayBankIsIsolated :
    ∃ t, step (hostAt { ref4 with status := 5 } 0x1400000000000000) = .next t ∧
      (hostAt { ref4 with status := 5 } 0x1400000000000000).currentTurn ≠ .resetPin ∧
      t.writeBank ≠ (hostAt { ref4 with status := 5 } 0x1400000000000000).writeBank :=
  ⟨_, rfl, by decide, by decide⟩

theorem witness_OneCausePerCommand :
    (∃ t, step (hostAt both 0x1000000000000000) = .next t ∧
      (hostAt both 0x1000000000000000).currentTurn = PortId.h.turn) ∧
    ∃ t, step (turnAt ref4 (.lane .lane0)) = .next t ∧
      (turnAt ref4 (.lane .lane0)).currentTurn = .lane .lane0 :=
  ⟨⟨_, rfl, by decide⟩, _, rfl, by decide⟩

theorem witness_NobodyDisturbsARunningLane :
    ∃ t, step (hostAt both 0x1200000000000000) = .next t ∧
      (hostAt both 0x1200000000000000).currentTurn ≠ .resetPin ∧
      (hostAt both 0x1200000000000000).currentTurn ≠ .lane .lane0 ∧
      (hostAt both 0x1200000000000000).busy .lane0 = true :=
  ⟨_, rfl, by decide⟩

theorem witness_CommandListsNeverChange :
    (∃ t, step (hostAt both 0x1200000000000000) = .next t ∧ t.portH.cp = both.portH.cp + 1 ∧
      (hostAt both 0x1200000000000000).currentTurn = PortId.h.turn) ∧
    (∃ t, step (hostAt both 0x1300000000000000) = .next t ∧ t.portH.cp = both.portH.cp) ∧
    ∃ t, step (turnAt (hostAt both 0x1300000000000000) .resetPin) = .next t ∧
      t.portH.cp = both.portH.cp + 1 ∧
      (turnAt (hostAt both 0x1300000000000000) .resetPin).currentTurn = .resetPin :=
  ⟨⟨_, rfl, by decide, by decide⟩, ⟨_, rfl, by decide⟩, _, rfl, by decide, by decide⟩

/-- A SWAP is held; port S has accepted its only VSYNC and has a SLINE left; the sink has the turn. -/
def noVsyncLeft (s : State) : State :=
  { s with portH := ⟨[0x1400000000000000], 0⟩,
           portS := ⟨[0x3100000000000000, 0x3000000300000000], 1⟩, turns := [.sink] }

theorem test_stuckForEver : StuckForEver (noVsyncLeft ref4) ∧ StuckForEver (noVsyncLeft both) :=
  ⟨⟨⟨by decide, ⟨_, rfl, by decide⟩, by decide⟩, by decide, by decide⟩,
   ⟨⟨by decide, ⟨_, rfl, by decide⟩, by decide⟩, by decide, by decide⟩⟩

theorem witness_EndedAndStuckStatesStay :
    (Stuck (hostAt both 0x1300000000000000) ∧ Stuck (noVsyncLeft both) ∧
      Stuck { noVsyncLeft both with status := 0x35 }) ∧
    (∃ t, StuckForEver (noVsyncLeft ref4) ∧ (noVsyncLeft ref4).currentTurn ≠ .resetPin ∧
      step (noVsyncLeft ref4) = .next t) ∧
    (∃ t, Ended (turnAt ref4 .host) ∧ (turnAt ref4 .host).currentTurn ≠ .resetPin ∧
      step (turnAt ref4 .host) = .next t) ∧
    ∃ t, StuckForEver (hostAt ref4 0x1400000000000000) ∧
      (hostAt ref4 0x1400000000000000).anyBusy = false ∧
      (hostAt ref4 0x1400000000000000).presented .s = none ∧
      (hostAt ref4 0x1400000000000000).currentTurn ≠ .resetPin ∧
      step (hostAt ref4 0x1400000000000000) = .next t :=
  ⟨⟨.inr ⟨by decide, ⟨_, rfl, by decide⟩, by decide⟩,
    .inl ⟨test_stuckForEver.2.1, by decide⟩,
    .inl ⟨⟨by decide, ⟨_, rfl, by decide⟩, by decide⟩, by decide⟩⟩,
   ⟨_, test_stuckForEver.1, by decide, rfl⟩,
   ⟨_, ⟨by decide, by decide, by decide⟩, by decide, rfl⟩,
   _, ⟨⟨by decide, ⟨_, rfl, by decide⟩, by decide⟩, by decide, by decide⟩, by decide, by decide,
    by decide, rfl⟩

/-- A VSYNC behind the command pointer's word is one left to send (70_reset_and_hazards.md R246). -/
theorem test_vsync_left :
    { ref4 with portS := ⟨[0x3000000300000000, 0x3100000000000000], 0⟩ }.vsyncLeft = true ∧
    { ref4 with portS := ⟨[0x3100000000000000, 0x3000000300000000], 1⟩ }.vsyncLeft = false := by decide

theorem witness_LanesInDifferentRowsCommute :
    ∃ t0 t01 t1 t10 p0 p1, Inv both ∧ both.busy .lane0 = true ∧ both.busy .lane1 = true ∧
      both.lane0.j.toNat < both.cfg.iterCount.toNat ∧ both.lane1.j.toNat < both.cfg.iterCount.toNat ∧
      both.laneSample .lane0 = .ok p0 ∧ both.laneSample .lane1 = .ok p1 ∧
      ftruncU p0.y ≠ ftruncU p1.y ∧
      laneStep .lane0 both = .next t0 ∧ laneStep .lane1 t0 = .next t01 ∧
      laneStep .lane1 both = .next t1 ∧ laneStep .lane0 t1 = .next t10 := by
  obtain ⟨t0, h0, k0⟩ := exists_of_nextIs
    (p := fun t => nextIs (laneStep .lane1 t) fun _ => true) (o := laneStep .lane0 both)
    (by decide +kernel)
  obtain ⟨t1, h1, k1⟩ := exists_of_nextIs
    (p := fun t => nextIs (laneStep .lane0 t) fun _ => true) (o := laneStep .lane1 both)
    (by decide +kernel)
  obtain ⟨t01, h01, _⟩ := exists_of_nextIs k0
  obtain ⟨t10, h10, _⟩ := exists_of_nextIs k1
  exact ⟨t0, t01, t1, t10, ⟨0x41000000, 0x40000000, 0x30⟩, ⟨0x40A00000, 0x41300000, 0x22⟩,
    test_both_inv, by decide, by decide, by decide, by decide, test_sample0, test_sample1,
    by decide, h0, h01, h1, h10⟩

theorem witness_LaneFinishesWithinItsTurns :
    Inv { both with turns := List.replicate 10 (.lane .lane0) } ∧
    { both with turns := List.replicate 10 (.lane .lane0) }.stepsLeft .lane0 ≤
      (List.replicate 10 (Turn.lane .lane0)).count (.lane .lane0) :=
  ⟨inv_of_inputs test_both_inv _ _ _ _, by decide⟩

/-- The turns before the host's in the next witness. -/
def tenEach : List Turn := List.replicate 10 (.lane .lane0) ++ List.replicate 10 (.lane .lane1)

theorem witness_HeldJoinIsAccepted :
    let s := { both with portH := ⟨[0x1300000000000000], 0⟩, turns := tenEach ++ .host :: [] }
    Inv s ∧ s.mode = .run ∧ Presents s .h .join ∧ s.turns = tenEach ++ .host :: [] ∧
    (∀ t ∈ tenEach, t ≠ .resetPin) ∧ s.stepsLeft .lane0 ≤ tenEach.count (.lane .lane0) ∧
    s.stepsLeft .lane1 ≤ tenEach.count (.lane .lane1) :=
  ⟨inv_of_inputs test_both_inv _ _ _ _, by decide, ⟨_, rfl, by decide⟩, rfl, by decide, by decide,
    by decide⟩

/-! A fair run: one lane takes its one step, then nothing is left to do, whoever's turn it is. -/

/-- REF4 with one curve in each half and no iterations; lane 0 runs. -/
def oneStep : State :=
  { both with cfg := { ref4Cfg with curveCount := 8, iterCount := 0 }, status := 0x11,
              turns := [.lane .lane0] }

/-- Nothing runs and nothing is presented. -/
def Quiet (s : State) : Prop :=
  s.busy .lane0 = false ∧ s.busy .lane1 = false ∧ s.portH = Port.empty ∧ s.portS = Port.empty ∧
  s.turns = []

theorem quiet_step {s : State} (h : Quiet s) : ∃ t, step s = .next t ∧ Quiet t := by
  obtain ⟨h0, h1, hh, hs, ht⟩ := h
  have hp : s.passTurn = { s with ticks := s.ticks + 1 } := by simp only [State.passTurn, ht]
  have hq : Quiet s.passTurn := by rw [hp]; exact ⟨h0, h1, hh, hs, ht⟩
  have ph : s.passTurn.presented .h = none := by
    show s.passTurn.portH.words[s.passTurn.portH.cp]? = none
    rw [hq.2.2.1]; rfl
  have ps : s.passTurn.presented .s = none := by
    show s.passTurn.portS.words[s.passTurn.portS.cp]? = none
    rw [hq.2.2.2.1]; rfl
  unfold step
  cases s.currentTurn with
  | host => exact ⟨_, by simp only [runTurn, portStep, ph], hq⟩
  | sink => exact ⟨_, by simp only [runTurn, portStep, ps], hq⟩
  | lane g =>
    cases g with
    | lane0 => exact ⟨_, by simp only [runTurn, laneStep, hq.1]; rfl, hq⟩
    | lane1 => exact ⟨_, by simp only [runTurn, laneStep, hq.2.1]; rfl, hq⟩
  | resetPin =>
    refine ⟨s.passTurn.applyReset, rfl, ?_⟩
    rw [hp]
    refine ⟨(by decide : (0 : BitVec 32).getLsbD 4 = false),
      (by decide : (0 : BitVec 32).getLsbD 5 = false), ?_, ?_, ht⟩
    · show s.portH.discard = Port.empty
      rw [hh]; rfl
    · show s.portS.discard = Port.empty
      rw [hs]; rfl

/-- The states of the run. -/
def fairRun : Nat → State
  | 0 => oneStep
  | n + 1 =>
    match step (fairRun n) with
    | .next t => t
    | .fault _ => fairRun n
    | .refused _ => fairRun n

theorem fairRun_quiet : ∀ n, Quiet (fairRun (n + 1))
  | 0 => by
    have h : step oneStep = .next { oneStep with
        turns := [], status := 1, lane0 := oneStep.cfg.nextCurve oneStep.lane0 } := by rfl
    have e : fairRun 1 = { oneStep with
        turns := [], status := 1, lane0 := oneStep.cfg.nextCurve oneStep.lane0 } := by
      simp only [fairRun, h]
    rw [e]
    exact ⟨by decide, by decide, rfl, rfl, rfl⟩
  | n + 1 => by
    obtain ⟨t, ht, hq⟩ := quiet_step (fairRun_quiet n)
    have e : fairRun (n + 1 + 1) = t := by rw [fairRun, ht]
    rw [e]; exact hq

theorem fairRun_step : ∀ n, step (fairRun n) = .next (fairRun (n + 1))
  | 0 => by rfl
  | n + 1 => by
    obtain ⟨t, ht, _⟩ := quiet_step (fairRun_quiet n)
    have e : fairRun (n + 1 + 1) = t := by rw [fairRun, ht]
    rw [e, ht]

theorem witness_FairRunsFinishRunningLanes :
    WeaklyFair fairRun ∧ Inv (fairRun 0) ∧ (fairRun 0).busy .lane0 = true := by
  refine ⟨⟨fairRun_step, ?_, ?_⟩, ?_, by decide⟩
  · intro h n hb
    obtain ⟨q0, q1, _⟩ := fairRun_quiet n
    have := hb (n + 1) (Nat.le_succ n)
    cases h
    · exact absurd (q0.symm.trans this) (by decide)
    · exact absurd (q1.symm.trans this) (by decide)
  · intro p n hb
    obtain ⟨_, _, qh, qs, _⟩ := fairRun_quiet n
    refine absurd ?_ (hb (n + 1) (Nat.le_succ n))
    cases p
    · show (fairRun (n + 1)).portH.words[(fairRun (n + 1)).portH.cp]? = none
      rw [qh]; rfl
    · show (fairRun (n + 1)).portS.words[(fairRun (n + 1)).portS.cp]? = none
      rw [qs]; rfl
  · exact ⟨by decide, by decide, by decide, by decide, by decide, fun b => by cases b <;> decide,
      by decide, by decide, fun h => by cases h <;> decide⟩

end Sys2Proof.Tests
end

section
/-! The binary32 formats of Machine/Float.lean (00_scope.md R8), read through one number: the magnitude
pattern, bits 30:0. `patternUnits` is the magnitude it stands for. It is strictly rising on all numbers,
not only on the finite patterns, and consecutive patterns of one exponent are one unit in the last place
apart. Comparison, rounding and conversion follow from these two properties. -/

namespace Sys2Proof.Machine

/-! ### Sign and magnitude pattern -/

/-- The number of a magnitude and a sign. -/
def signedMag (neg : Bool) (m : Nat) : Int := if neg then - (m : Int) else (m : Int)

@[simp] theorem signedMag_true (m : Nat) : signedMag true m = - (m : Int) := rfl

@[simp] theorem signedMag_false (m : Nat) : signedMag false m = (m : Int) := rfl

/-- Bits 30:0 of a binary32 value: exponent and fraction. -/
def magPattern (a : F32) : Nat := (a.extractLsb' 0 31).toNat

/-- The binary32 value of a sign and a magnitude pattern. -/
def ofSignPattern (neg : Bool) (p : Nat) : F32 := BitVec.ofNat 32 ((if neg then 2 ^ 31 else 0) + p)

theorem forder_eq (a : F32) : forder a = signedMag (fneg a) (magPattern a) := rfl

theorem units_eq (a : F32) : units a = signedMag (fneg a) (magUnits a) := rfl

theorem finf_eq (neg : Bool) : finf neg = ofSignPattern neg infPattern := rfl

theorem packRound_eq (neg : Bool) (m d : Nat) :
    packRound neg m d = ofSignPattern neg (min (roundMag m d) infPattern) := rfl

theorem magPattern_eq_mod (a : F32) : magPattern a = a.toNat % 2 ^ 31 := by
  simp [magPattern, BitVec.extractLsb'_toNat]

theorem fexp_eq (a : F32) : fexp a = magPattern a / 2 ^ 23 := by
  simp only [fexp, magPattern_eq_mod, BitVec.extractLsb'_toNat, Nat.shiftRight_eq_div_pow]
  omega

theorem ffrac_eq (a : F32) : ffrac a = magPattern a % 2 ^ 23 := by
  simp only [ffrac, magPattern_eq_mod, BitVec.extractLsb'_toNat, Nat.shiftRight_zero]
  omega

theorem magPattern_lt (a : F32) : magPattern a < 2 ^ 31 := (a.extractLsb' 0 31).isLt

theorem isFinite_iff (a : F32) : isFinite a = true ↔ magPattern a < infPattern := by
  have := magPattern_lt a
  simp only [isFinite, fexp_eq, infPattern, decide_eq_true_eq]
  omega

theorem isInf_iff (a : F32) : isInf a = true ↔ magPattern a = infPattern := by
  have := magPattern_lt a
  simp only [isInf, fexp_eq, ffrac_eq, infPattern, Bool.and_eq_true, decide_eq_true_eq]
  omega

theorem isNaN_iff (a : F32) : isNaN a = true ↔ infPattern < magPattern a := by
  have := magPattern_lt a
  simp only [isNaN, fexp_eq, ffrac_eq, infPattern, Bool.and_eq_true, decide_eq_true_eq]
  omega

theorem isNaN_of_isFinite {a : F32} (h : isFinite a = true) : isNaN a = false := by
  rw [isFinite_iff] at h
  rw [← Bool.not_eq_true, isNaN_iff]
  omega

theorem isInf_of_isFinite {a : F32} (h : isFinite a = true) : isInf a = false := by
  rw [isFinite_iff] at h
  rw [← Bool.not_eq_true, isInf_iff]
  omega

theorem fneg_eq_decide (a : F32) : fneg a = decide (2 ^ 31 ≤ a.toNat) := by
  rw [fneg, ← BitVec.msb_eq_getLsbD_last a, BitVec.msb_eq_decide]

theorem toNat_ofSignPattern (neg : Bool) {p : Nat} (hp : p < 2 ^ 31) :
    (ofSignPattern neg p).toNat = (if neg then 2 ^ 31 else 0) + p := by
  cases neg <;> simp [ofSignPattern] <;> omega

theorem magPattern_ofSignPattern (neg : Bool) {p : Nat} (hp : p < 2 ^ 31) :
    magPattern (ofSignPattern neg p) = p := by
  rw [magPattern_eq_mod, toNat_ofSignPattern neg hp]
  cases neg <;> simp <;> omega

theorem fneg_ofSignPattern (neg : Bool) {p : Nat} (hp : p < 2 ^ 31) :
    fneg (ofSignPattern neg p) = neg := by
  rw [fneg_eq_decide, toNat_ofSignPattern neg hp]
  cases neg with
  | false => simpa using hp
  | true => simp

@[simp] theorem fneg_finf (neg : Bool) : fneg (finf neg) = neg :=
  fneg_ofSignPattern neg (by decide)

@[simp] theorem magPattern_finf (neg : Bool) : magPattern (finf neg) = infPattern :=
  magPattern_ofSignPattern neg (by decide)

@[simp] theorem isInf_finf (neg : Bool) : isInf (finf neg) = true := by simp [isInf_iff]

@[simp] theorem isNaN_finf (neg : Bool) : isNaN (finf neg) = false := by
  simp [← Bool.not_eq_true, isNaN_iff]

/-! ### The magnitude of a pattern -/

/-- The magnitude, in units of 2^-149, that a magnitude pattern stands for. -/
def patternUnits (p : Nat) : Nat :=
  if p / 2 ^ 23 = 0 then p % 2 ^ 23 else (2 ^ 23 + p % 2 ^ 23) * 2 ^ (p / 2 ^ 23 - 1)

theorem magUnits_eq (a : F32) : magUnits a = patternUnits (magPattern a) := by
  simp only [magUnits, patternUnits, fexp_eq, ffrac_eq]

/-- A significand `q` at the scale `2^k`, and at 2^24 the first significand of the next scale. -/
theorem patternUnits_scaled {k q : Nat} (hq : q ≤ 2 ^ 24) (hk : k = 0 ∨ 2 ^ 23 ≤ q) :
    patternUnits (k * 2 ^ 23 + q) = q * 2 ^ k := by
  unfold patternUnits
  rcases Nat.lt_or_ge q (2 ^ 23) with hlow | hhigh
  · obtain rfl : k = 0 := by omega
    rw [if_pos (by omega)]
    simp; omega
  · rw [if_neg (by omega)]
    rcases Nat.lt_or_eq_of_le hq with hlt | rfl
    · rw [show (k * 2 ^ 23 + q) / 2 ^ 23 - 1 = k by omega,
        show 2 ^ 23 + (k * 2 ^ 23 + q) % 2 ^ 23 = q by omega]
    · rw [show (k * 2 ^ 23 + 2 ^ 24) / 2 ^ 23 - 1 = k + 1 by omega,
        show 2 ^ 23 + (k * 2 ^ 23 + 2 ^ 24) % 2 ^ 23 = 2 ^ 23 by omega]
      ring

theorem patternUnits_strictMono : StrictMono patternUnits := by
  refine strictMono_nat_of_lt_succ fun p => ?_
  obtain ⟨k, q, rfl, hq, hk⟩ : ∃ k q, p = k * 2 ^ 23 + q ∧ q < 2 ^ 24 ∧ (k = 0 ∨ 2 ^ 23 ≤ q) :=
    ⟨p / 2 ^ 23 - 1, p - (p / 2 ^ 23 - 1) * 2 ^ 23, by omega, by omega, by omega⟩
  rw [Nat.add_assoc, patternUnits_scaled (by omega) hk, patternUnits_scaled (by omega) (by omega)]
  exact Nat.mul_lt_mul_of_pos_right (Nat.lt_succ_self q) (Nat.two_pow_pos k)

@[simp] theorem patternUnits_zero : patternUnits 0 = 0 := rfl

/-- Signed magnitudes are ordered as the signed patterns they come from. -/
theorem signedMag_patternUnits_lt_iff (m n : Bool) (p q : Nat) :
    signedMag m (patternUnits p) < signedMag n (patternUnits q) ↔ signedMag m p < signedMag n q := by
  have hp := patternUnits_strictMono.lt_iff_lt (a := 0) (b := p)
  have hq := patternUnits_strictMono.lt_iff_lt (a := 0) (b := q)
  have hpq := patternUnits_strictMono.lt_iff_lt (a := p) (b := q)
  have hqp := patternUnits_strictMono.lt_iff_lt (a := q) (b := p)
  rw [patternUnits_zero] at hp hq
  cases m <;> cases n <;> simp only [signedMag_true, signedMag_false] <;> omega

theorem units_lt_units_iff (a b : F32) : units a < units b ↔ forder a < forder b := by
  simp only [units_eq, forder_eq, magUnits_eq, signedMag_patternUnits_lt_iff]

theorem units_le_units_iff (a b : F32) : units a ≤ units b ↔ forder a ≤ forder b := by
  simpa only [not_lt] using not_congr (units_lt_units_iff b a)

end Sys2Proof.Machine
end

section
/-! Rounding to nearest, ties to even (00_scope.md R8): what `roundMag` picks, first among magnitude
patterns without the bound of the format, then among binary32 values. -/

namespace Sys2Proof.Machine

/-- How far pattern `p` is from `m`, both counted in units of 2^-(149 + d). -/
def patternError (p m d : Nat) : Nat := ((patternUnits p * 2 ^ d : Nat) - (m : Int)).natAbs

/-- `p` is a pattern nearest to `m * 2^-(149 + d)` among all patterns, and an even one on a tie. -/
def NearestPattern (p m d : Nat) : Prop :=
  ∀ w, patternError p m d ≤ patternError w m d ∧
    (patternError p m d = patternError w m d → w = p ∨ p % 2 = 0)

/-- How many low bits of `m` are below the last place. -/
def roundShift (m d : Nat) : Nat := max (m.log2 - 23) d

/-- The greatest pattern that is not above `m * 2^-(149 + d)`. -/
def floorPattern (m d : Nat) : Nat := (roundShift m d - d) * 2 ^ 23 + m / 2 ^ roundShift m d

/-- Rounding goes one pattern up from the floor when the rest is more than half a unit in the last place,
or half of one above an odd significand. -/
theorem roundMag_eq (m d : Nat) : roundMag m d = floorPattern m d +
    if 2 ^ roundShift m d < 2 * (m % 2 ^ roundShift m d) ∨
      (2 * (m % 2 ^ roundShift m d) = 2 ^ roundShift m d ∧ m / 2 ^ roundShift m d % 2 = 1)
    then 1 else 0 :=
  (Nat.add_assoc _ _ _).symm

theorem div_roundShift_lt (m d : Nat) : m / 2 ^ roundShift m d < 2 ^ 24 := by
  rw [Nat.div_lt_iff_lt_mul (Nat.two_pow_pos _), ← Nat.pow_add]
  exact Nat.lt_log2_self.trans_le
    (Nat.pow_le_pow_right (by decide) (by simp only [roundShift]; omega))

/-- Above the least scale the significand is normalised. -/
theorem le_div_roundShift {m d : Nat} (h : roundShift m d - d ≠ 0) :
    2 ^ 23 ≤ m / 2 ^ roundShift m d := by
  have hlog : m.log2 ≠ 0 := by simp only [roundShift] at h; omega
  have hm : m ≠ 0 := by rintro rfl; exact hlog rfl
  rw [Nat.le_div_iff_mul_le (Nat.two_pow_pos _), ← Nat.pow_add]
  exact (Nat.pow_le_pow_right (by decide) (by simp only [roundShift] at h ⊢; omega)).trans
    (Nat.log2_self_le hm)

theorem two_pow_roundShift (m d : Nat) : 2 ^ (roundShift m d - d) * 2 ^ d = 2 ^ roundShift m d := by
  rw [← Nat.pow_add, Nat.sub_add_cancel (show d ≤ roundShift m d from Nat.le_max_right _ _)]

theorem patternUnits_floorPattern (m d : Nat) :
    patternUnits (floorPattern m d) * 2 ^ d = m / 2 ^ roundShift m d * 2 ^ roundShift m d := by
  rw [floorPattern, patternUnits_scaled (div_roundShift_lt m d).le
    (or_iff_not_imp_left.mpr le_div_roundShift), Nat.mul_assoc, two_pow_roundShift]

theorem patternUnits_floorPattern_succ (m d : Nat) :
    patternUnits (floorPattern m d + 1) * 2 ^ d =
      patternUnits (floorPattern m d) * 2 ^ d + 2 ^ roundShift m d := by
  have hnorm := or_iff_not_imp_left.mpr (le_div_roundShift (m := m) (d := d))
  rw [patternUnits_floorPattern, floorPattern, Nat.add_assoc,
    patternUnits_scaled (div_roundShift_lt m d) (by omega), Nat.mul_assoc, two_pow_roundShift,
    Nat.succ_mul]

theorem floorPattern_mod_two (m d : Nat) : floorPattern m d % 2 = m / 2 ^ roundShift m d % 2 := by
  unfold floorPattern; omega

/-- No pattern lies strictly between the two around `m`. -/
theorem eq_or_lt_floorPattern_or_eq_or_gt_succ (w m d : Nat) :
    (w = floorPattern m d ∨
      patternUnits w * 2 ^ d < patternUnits (floorPattern m d) * 2 ^ d) ∨
    (w = floorPattern m d + 1 ∨
      patternUnits (floorPattern m d + 1) * 2 ^ d < patternUnits w * 2 ^ d) := by
  have hscale {p q : Nat} (h : p < q) : patternUnits p * 2 ^ d < patternUnits q * 2 ^ d :=
    Nat.mul_lt_mul_of_pos_right (patternUnits_strictMono h) (Nat.two_pow_pos d)
  rcases lt_trichotomy w (floorPattern m d) with h | h | h
  · exact .inl (.inr (hscale h))
  · exact .inl (.inl h)
  · exact .inr ((Nat.lt_or_eq_of_le h).symm.imp Eq.symm hscale)

/-- The rounding decision: the nearer of the two patterns around `m`, the even one on a tie. -/
theorem roundMag_nearest (m d : Nat) : NearestPattern (roundMag m d) m d := by
  intro w
  have hw := eq_or_lt_floorPattern_or_eq_or_gt_succ w m d
  have hsplit := Nat.div_add_mod' m (2 ^ roundShift m d)
  have hrem := Nat.mod_lt m (Nat.two_pow_pos (roundShift m d))
  have hpar := floorPattern_mod_two m d
  have hsucc := patternUnits_floorPattern_succ m d
  have hfloor := patternUnits_floorPattern m d
  rw [roundMag_eq]
  generalize m % 2 ^ roundShift m d = r at *
  generalize m / 2 ^ roundShift m d * 2 ^ roundShift m d = a at *
  generalize m / 2 ^ roundShift m d = q at *
  generalize 2 ^ roundShift m d = ulp at *
  generalize floorPattern m d = f at *
  simp only [patternError]
  split
  · rcases hw with (rfl | hw) | (rfl | hw) <;> omega
  · rw [Nat.add_zero]
    rcases hw with (rfl | hw) | (rfl | hw) <;> omega

/-! ### Overflow -/

/-- Half a unit in the last place of the greatest finite values, counted in units of 2^-(149 + d). -/
def halfTopUlp (d : Nat) : Nat := 2 ^ 252 * 2 ^ d

theorem overflowUnits_mul (d : Nat) : overflowUnits * 2 ^ d = 33554431 * halfTopUlp d :=
  Nat.mul_assoc _ _ _

theorem patternUnits_infPattern (d : Nat) :
    patternUnits infPattern * 2 ^ d = 33554432 * halfTopUlp d := by
  rw [show infPattern = 253 * 2 ^ 23 + 2 ^ 24 by decide, patternUnits_scaled (by decide) (by decide),
    halfTopUlp]
  ring

theorem patternUnits_greatestFinite (d : Nat) :
    patternUnits (infPattern - 1) * 2 ^ d = 33554430 * halfTopUlp d := by
  rw [show infPattern - 1 = 253 * 2 ^ 23 + (2 ^ 24 - 1) by decide,
    patternUnits_scaled (by decide) (by decide), halfTopUlp]
  ring

/-- The overflow threshold lies midway between the greatest finite pattern, which is odd, and the
infinity's, so the tie rounds up. -/
theorem infPattern_le_roundMag_iff (m d : Nat) :
    infPattern ≤ roundMag m d ↔ overflowUnits * 2 ^ d ≤ m := by
  obtain ⟨hinf, hinftie⟩ := roundMag_nearest m d infPattern
  obtain ⟨hfin, hfintie⟩ := roundMag_nearest m d (infPattern - 1)
  have hpos : 0 < halfTopUlp d := Nat.mul_pos (Nat.two_pow_pos _) (Nat.two_pow_pos _)
  simp only [patternError, patternUnits_infPattern, patternUnits_greatestFinite] at *
  rw [overflowUnits_mul]
  rcases Nat.lt_trichotomy (roundMag m d) (infPattern - 1) with hlt | heq | hgt
  · have hbelow := Nat.mul_lt_mul_of_pos_right (patternUnits_strictMono hlt) (Nat.two_pow_pos d)
    rw [patternUnits_greatestFinite] at hbelow
    omega
  · have hodd : roundMag m d % 2 = 1 := heq ▸ rfl
    have hval := heq ▸ patternUnits_greatestFinite d
    omega
  · have hge : infPattern ≤ roundMag m d := Nat.le_of_pred_lt hgt
    have habove := Nat.mul_le_mul_right (2 ^ d) (patternUnits_strictMono.monotone hge)
    rw [patternUnits_infPattern] at habove
    omega

/-! ### Packing the rounded magnitude under its sign -/

theorem signedMag_mul_two_pow (neg : Bool) (m d : Nat) :
    signedMag neg m * 2 ^ d = signedMag neg (m * 2 ^ d) := by
  cases neg <;> simp [signedMag]

/-- A value's distance from `± m * 2^-(149 + d)`, by its sign: on the other side of zero its magnitude
adds to `m`. -/
theorem natAbs_units_sub (w : F32) (neg : Bool) (m d : Nat) :
    (units w * 2 ^ d - signedMag neg m).natAbs =
      if fneg w = neg then patternError (magPattern w) m d
      else patternUnits (magPattern w) * 2 ^ d + m := by
  rw [units_eq, magUnits_eq, patternError, signedMag_mul_two_pow]
  generalize patternUnits (magPattern w) * 2 ^ d = x
  cases neg <;> cases fneg w <;> simp only [signedMag_true, signedMag_false, reduceCtorEq, if_true,
    if_false] <;> omega

/-- The nearest pattern under the sign of the exact value is the nearest finite value: one of the other
sign is no nearer than a zero. -/
theorem isNearest_ofSignPattern {neg : Bool} {p m d : Nat} (hp : NearestPattern p m d)
    (hfin : p < infPattern) : IsNearest (ofSignPattern neg p) (signedMag neg m) d := by
  have hp31 : p < 2 ^ 31 := hfin.trans (by decide)
  have hmag := magPattern_ofSignPattern neg hp31
  have hneg := fneg_ofSignPattern neg hp31
  refine ⟨by rw [isFinite_iff, hmag]; exact hfin, fun w _ => ?_⟩
  have heven : ffrac (ofSignPattern neg p) % 2 = p % 2 := by rw [ffrac_eq, hmag]; omega
  rw [natAbs_units_sub, natAbs_units_sub, if_pos hneg, hmag, heven, units_eq, units_eq, magUnits_eq,
    magUnits_eq, hmag, hneg]
  split
  next hsame =>
    rw [hsame]
    exact (hp (magPattern w)).imp_right fun htie heq =>
      (htie heq).imp_left (congrArg fun q => signedMag neg (patternUnits q))
  next hopp =>
    obtain ⟨hzero, hzerotie⟩ := hp 0
    simp only [patternError, patternUnits_zero] at hzero hzerotie ⊢
    refine ⟨by omega, fun heq => ?_⟩
    have hw : patternUnits (magPattern w) * 2 ^ d = 0 := by omega
    have hw0 : patternUnits (magPattern w) = 0 := by simpa using hw
    refine (hzerotie (by omega)).imp_left fun hp0 => ?_
    rw [← hp0, hw0]
    simp [signedMag]

/-- What `packRound` answers is correctly rounded (00_scope.md R8). -/
theorem packRound_roundedTo (neg : Bool) (m d : Nat) :
    RoundedTo (packRound neg m d) (signedMag neg m) d neg := by
  have hnatAbs : (signedMag neg m).natAbs = m := by cases neg <;> simp
  rw [packRound_eq]
  refine ⟨fneg_ofSignPattern neg (by simp [infPattern]), fun hover => ?_, fun hunder => ?_⟩
  · rw [hnatAbs, ← infPattern_le_roundMag_iff] at hover
    rw [Nat.min_eq_right hover, finf_eq]
  · rw [hnatAbs, ← not_le, ← infPattern_le_roundMag_iff, not_le] at hunder
    rw [Nat.min_eq_left hunder.le]
    exact isNearest_ofSignPattern (roundMag_nearest m d) hunder

/-! ### Whole numbers in binary32 -/

/-- Nothing is lost where the bits below the last place are 0. -/
theorem patternUnits_roundMag_of_dvd {m d : Nat} (h : 2 ^ roundShift m d ∣ m) :
    patternUnits (roundMag m d) * 2 ^ d = m := by
  have hulp := Nat.two_pow_pos (roundShift m d)
  rw [roundMag_eq, Nat.mod_eq_zero_of_dvd h, if_neg (by omega), Nat.add_zero,
    patternUnits_floorPattern, Nat.div_mul_cancel h]

theorem mul_oneUnits_lt {n : Nat} (hn : n < 2 ^ 24) : n * oneUnits < 2 ^ 173 := by
  rw [show 2 ^ 173 = 2 ^ 24 * oneUnits by decide]
  exact Nat.mul_lt_mul_of_pos_right hn (by decide)

/-- A whole number below 2^24 has no bit below the last place. -/
theorem roundShift_mul_oneUnits_le {n : Nat} (hn : n < 2 ^ 24) :
    roundShift (n * oneUnits) 0 ≤ 149 := by
  have hlog : (n * oneUnits).log2 < 173 := by
    rcases Nat.eq_zero_or_pos (n * oneUnits) with hzero | hpos
    · rw [hzero]; decide
    · exact (Nat.log2_lt hpos.ne').mpr (mul_oneUnits_lt hn)
  simp only [roundShift]
  omega

/-- `u2f` gives a finite pattern of exactly the magnitude `n`. -/
theorem u2f_eq {n : Nat} (hn : n < 2 ^ 24) :
    ∃ p < infPattern, u2f n = ofSignPattern false p ∧ patternUnits p = n * oneUnits := by
  have hdvd : 2 ^ roundShift (n * oneUnits) 0 ∣ n * oneUnits :=
    (Nat.pow_dvd_pow 2 (roundShift_mul_oneUnits_le hn)).trans (Nat.dvd_mul_left _ _)
  have hfin : roundMag (n * oneUnits) 0 < infPattern := by
    rw [← not_le, infPattern_le_roundMag_iff, not_le]
    exact (mul_oneUnits_lt hn).trans_le (by decide)
  exact ⟨_, hfin, by rw [u2f, packRound_eq, Nat.min_eq_left hfin.le],
    by simpa using patternUnits_roundMag_of_dvd hdvd⟩

/-- `u2f` is exact (00_scope.md R8). -/
theorem units_u2f {n : Nat} (hn : n < 2 ^ 24) : units (u2f n) = (n * oneUnits : Nat) := by
  obtain ⟨p, hp, hu2f, hval⟩ := u2f_eq hn
  have hp31 : p < 2 ^ 31 := hp.trans (by decide)
  rw [hu2f, units_eq, magUnits_eq, fneg_ofSignPattern _ hp31, magPattern_ofSignPattern _ hp31, hval]
  rfl

end Sys2Proof.Machine
end

section
/-! The binary32 statements of 00_scope.md R8. -/

namespace Sys2Proof.Machine

/-! ### Sums and products -/

theorem natAbs_units (a : F32) : (units a).natAbs = magUnits a := by
  rw [units_eq]; cases fneg a <;> simp

theorem units_eq_zero_iff (a : F32) : units a = 0 ↔ magUnits a = 0 := by
  rw [← natAbs_units, Int.natAbs_eq_zero]

theorem signedMag_natAbs (x : Int) : signedMag (decide (x < 0)) x.natAbs = x := by
  unfold signedMag
  split
  next h => have := of_decide_eq_true h; omega
  next h => have := mt decide_eq_true h; omega

theorem signedMag_mul (m n : Bool) (x y : Nat) :
    signedMag m x * signedMag n y = signedMag (m != n) (x * y) := by
  cases m <;> cases n <;> simp

/-- The zero of a sign is what rounding an exact 0 under that sign gives. -/
theorem fzero_eq_packRound (neg : Bool) : fzero neg = packRound neg 0 0 := rfl

theorem fadd_of_isFinite {a b : F32} (ha : isFinite a = true) (hb : isFinite b = true) :
    fadd a b = packRound (if units a + units b = 0 then fneg a && fneg b
      else decide (units a + units b < 0)) (units a + units b).natAbs 0 := by
  unfold fadd
  simp only [isNaN_of_isFinite ha, isNaN_of_isFinite hb, isInf_of_isFinite ha, isInf_of_isFinite hb,
    Bool.or_false, Bool.false_eq_true, if_false]
  split
  next hzero => rw [hzero, fzero_eq_packRound]; rfl
  next => rfl

theorem fmul_of_isFinite {a b : F32} (ha : isFinite a = true) (hb : isFinite b = true) :
    fmul a b = packRound (fneg a != fneg b) (magUnits a * magUnits b) 149 := by
  simp [fmul, isNaN_of_isFinite, isInf_of_isFinite, ha, hb]

/-- Settles O35: the sum, exact in units, is rounded once; an exact 0 rounds to the zero of its
sign. -/
theorem faddIsCorrectlyRounded : Obligations.FaddIsCorrectlyRounded := by
  intro a b ha hb
  rw [fadd_of_isFinite ha hb]
  split
  next hzero =>
    rw [hzero]
    simpa [signedMag] using packRound_roundedTo (fneg a && fneg b) 0 0
  next =>
    simpa only [signedMag_natAbs] using
      packRound_roundedTo (decide (units a + units b < 0)) (units a + units b).natAbs 0

/-- Settles O36: the product of the magnitudes is rounded once, under the sign of the product. -/
theorem fmulIsCorrectlyRounded : Obligations.FmulIsCorrectlyRounded := by
  intro a b ha hb
  rw [fmul_of_isFinite ha hb, units_eq, units_eq, signedMag_mul]
  exact packRound_roundedTo _ _ _

/-! ### Sums and products that are not finite -/

theorem fadd_of_isNaN {a b : F32} (h : isNaN a = true ∨ isNaN b = true) : fadd a b = qnan := by
  simp [fadd, h]

theorem fmul_of_isNaN {a b : F32} (h : isNaN a = true ∨ isNaN b = true) : fmul a b = qnan := by
  simp [fmul, h]

theorem magUnits_finf_ne_zero (neg : Bool) : magUnits (finf neg) ≠ 0 := by
  cases neg <;> decide

theorem fadd_finf_finf (m n : Bool) : fadd (finf m) (finf n) = if m = n then finf m else qnan := by
  cases m <;> cases n <;> simp [fadd]

theorem fmul_finf_finf (m n : Bool) : fmul (finf m) (finf n) = finf (m != n) := by
  simp [fmul, magUnits_finf_ne_zero]

theorem fadd_finf_of_isFinite (n : Bool) {b : F32} (hb : isFinite b = true) :
    fadd (finf n) b = finf n ∧ fadd b (finf n) = finf n := by
  simp [fadd, isNaN_of_isFinite hb, isInf_of_isFinite hb]

theorem fmul_finf_of_isFinite (n : Bool) {b : F32} (hb : isFinite b = true) :
    fmul (finf n) b = (if magUnits b = 0 then qnan else finf (n != fneg b)) ∧
      fmul b (finf n) = (if magUnits b = 0 then qnan else finf (n != fneg b)) := by
  simp [fmul, isNaN_of_isFinite hb, magUnits_finf_ne_zero, bne_comm (a := fneg b)]

/-- Settles O37, by the branches of `fadd` and `fmul` before the rounding. -/
theorem nonFiniteSumsAndProducts : Obligations.NonFiniteSumsAndProducts := by
  refine ⟨fun a b h => ⟨fadd_of_isNaN h, fmul_of_isNaN h⟩, fun n => ?_, fmul_finf_finf,
    fun n b hb => ?_⟩
  · simp [fadd_finf_finf]
  · obtain ⟨haddl, haddr⟩ := fadd_finf_of_isFinite n hb
    obtain ⟨hmull, hmulr⟩ := fmul_finf_of_isFinite n hb
    refine ⟨haddl, haddr, fun hzero => ?_, fun hne => ?_⟩
    · rw [units_eq_zero_iff] at hzero
      rw [hmull, hmulr, if_pos hzero]
      exact ⟨rfl, rfl⟩
    · rw [Ne, units_eq_zero_iff] at hne
      rw [hmull, hmulr, if_neg hne]
      exact ⟨rfl, rfl⟩

/-! ### Comparison -/

theorem flt_iff (a b : F32) :
    flt a b = true ↔ isNaN a = false ∧ isNaN b = false ∧ forder a < forder b := by
  simp [flt, and_assoc]

theorem fge_iff (a b : F32) :
    fge a b = true ↔ isNaN a = false ∧ isNaN b = false ∧ forder b ≤ forder a := by
  simp [fge, and_assoc]

theorem forder_finf (n : Bool) : forder (finf n) = signedMag n infPattern := by
  rw [forder_eq, fneg_finf, magPattern_finf]

/-- A finite value lies strictly between the infinities. -/
theorem forder_between {a : F32} (ha : isFinite a = true) :
    signedMag true infPattern < forder a ∧ forder a < signedMag false infPattern := by
  rw [isFinite_iff] at ha
  rw [forder_eq]
  cases fneg a <;> simp only [signedMag_true, signedMag_false] <;> omega

/-- Settles O39: signed patterns are ordered as the values, and those of the infinities enclose the
finite ones. -/
theorem comparisonsFollowTheValues : Obligations.ComparisonsFollowTheValues := by
  refine ⟨fun a b ha hb => ?_, fun a b h => ?_, fun n a ha => ?_, fun m n => ?_⟩
  · simp [flt_iff, fge_iff, isNaN_of_isFinite, ha, hb, units_lt_units_iff, units_le_units_iff]
  · rcases h with h | h <;> simp [flt, fge, h]
  · obtain ⟨hlow, hhigh⟩ := forder_between ha
    cases n <;> simp [flt, fge, isNaN_of_isFinite ha, forder_finf, hlow, hhigh, hlow.le, hhigh.le,
      -signedMag_true, -signedMag_false]
  · have hinf : signedMag true infPattern < signedMag false infPattern := by decide
    cases m <;> cases n <;> simp [flt, fge, forder_finf, hinf, hinf.le,
      -signedMag_true, -signedMag_false]

/-! ### Conversion to an integer -/

/-- The pattern of 2^31, the first magnitude that does not fit. -/
def twoPow31Pattern : Nat := 0x4F000000

theorem patternUnits_twoPow31Pattern : patternUnits twoPow31Pattern = 2 ^ 31 * oneUnits := by
  rw [show twoPow31Pattern = 157 * 2 ^ 23 + 2 ^ 23 by decide,
    patternUnits_scaled (by decide) (by decide), oneUnits]
  ring

theorem twoPow31_lt_magUnits_iff (v : F32) :
    2 ^ 31 * oneUnits < magUnits v ↔ twoPow31Pattern < magPattern v := by
  rw [magUnits_eq, ← patternUnits_twoPow31Pattern, patternUnits_strictMono.lt_iff_lt]

theorem twoPow31_le_magUnits_iff (v : F32) :
    2 ^ 31 * oneUnits ≤ magUnits v ↔ twoPow31Pattern ≤ magPattern v := by
  rw [magUnits_eq, ← patternUnits_twoPow31Pattern, patternUnits_strictMono.le_iff_le]

theorem forder_twoPow31 : forder 0x4F000000 = signedMag false twoPow31Pattern := by decide

theorem forder_neg_twoPow31 : forder 0xCF000000 = signedMag true twoPow31Pattern := by decide

theorem f2i_of_fneg {v : F32} (hv : isNaN v = false) (hneg : fneg v = true) :
    f2i v = if twoPow31Pattern < magPattern v then (0x80000000, true)
      else (- BitVec.ofNat 32 (ftruncMag v), false) := by
  simp only [f2i, hv, hneg, Bool.false_eq_true, if_false, if_true, twoPow31_lt_magUnits_iff]

theorem f2i_of_not_fneg {v : F32} (hv : isNaN v = false) (hneg : fneg v = false) :
    f2i v = if twoPow31Pattern ≤ magPattern v then (0x7FFFFFFF, true)
      else (BitVec.ofNat 32 (ftruncMag v), false) := by
  simp only [f2i, hv, hneg, Bool.false_eq_true, if_false, twoPow31_le_magUnits_iff]

/-- The magnitude truncated and then signed is the value truncated toward zero. -/
theorem ofInt_tdiv_units (v : F32) :
    BitVec.ofInt 32 (Int.tdiv (units v) (2 ^ 149)) =
      if fneg v then - BitVec.ofNat 32 (ftruncMag v) else BitVec.ofNat 32 (ftruncMag v) := by
  have hmag : Int.tdiv (magUnits v) (2 ^ 149) = (ftruncMag v : Int) := by
    rw [ftruncMag, Int.ofNat_tdiv]; rfl
  rw [units_eq]
  cases fneg v with
  | false => rw [signedMag_false, hmag, BitVec.ofInt_natCast]; rfl
  | true => rw [signedMag_true, Int.neg_tdiv, hmag, BitVec.ofInt_neg, BitVec.ofInt_natCast]; rfl

theorem f2i_of_ge_twoPow31 {v : F32} (h : fge v 0x4F000000 = true) :
    f2i v = (BitVec.ofInt 32 (2 ^ 31 - 1), true) := by
  obtain ⟨hnan, -, hle⟩ := (fge_iff _ _).mp h
  rw [forder_twoPow31, forder_eq] at hle
  cases hneg : fneg v with
  | true =>
    rw [hneg] at hle
    exact absurd hle (by simp only [signedMag_true, signedMag_false, twoPow31Pattern]; omega)
  | false =>
    rw [hneg] at hle
    rw [f2i_of_not_fneg hnan hneg, if_pos (Int.ofNat_le.mp hle)]
    rfl

theorem f2i_of_lt_neg_twoPow31 {v : F32} (h : flt v 0xCF000000 = true) :
    f2i v = (BitVec.ofInt 32 (- 2 ^ 31), true) := by
  obtain ⟨hnan, -, hlt⟩ := (flt_iff _ _).mp h
  rw [forder_neg_twoPow31, forder_eq] at hlt
  cases hneg : fneg v with
  | true =>
    rw [hneg] at hlt
    rw [f2i_of_fneg hnan hneg, if_pos (by simpa using hlt)]
    rfl
  | false =>
    rw [hneg] at hlt
    exact absurd hlt (by simp only [signedMag_true, signedMag_false]; omega)

theorem f2i_of_between {v : F32} (hlow : fge v 0xCF000000 = true) (hhigh : flt v 0x4F000000 = true) :
    f2i v = (BitVec.ofInt 32 (Int.tdiv (units v) (2 ^ 149)), false) := by
  obtain ⟨hnan, -, hle⟩ := (fge_iff _ _).mp hlow
  obtain ⟨-, -, hlt⟩ := (flt_iff _ _).mp hhigh
  rw [forder_neg_twoPow31, forder_eq] at hle
  rw [forder_twoPow31, forder_eq] at hlt
  rw [ofInt_tdiv_units]
  cases hneg : fneg v with
  | true =>
    rw [hneg] at hle
    rw [f2i_of_fneg hnan hneg, if_neg (by simpa using hle)]
    rfl
  | false =>
    rw [hneg] at hlt
    rw [f2i_of_not_fneg hnan hneg, if_neg (by simpa using hlt)]
    rfl

/-- Settles O38: the guards of `f2i` are tests of the pattern against that of 2^31. -/
theorem f2iTruncatesAndSaturates : Obligations.F2iTruncatesAndSaturates := fun v =>
  ⟨fun hnan => by simp [f2i, hnan], f2i_of_ge_twoPow31, f2i_of_lt_neg_twoPow31, f2i_of_between⟩

end Sys2Proof.Machine
end

section
/-! No step stops (00_scope.md R9; 60_exceptions.md R210): every index that a meaning computes is inside
its space when the state meets `Inv`. -/

namespace Sys2Proof.Machine

/-! ### Indices -/

/-- The guard of `Emit` leaves a cell below the grid's size (41_mapper.md R147). -/
theorem ftruncU_lt {v : F32} {n : Nat} (hn : n < 2 ^ 24) (hge : fge v 0 = true)
    (hlt : flt v (u2f n) = true) : ftruncU v < n := by
  obtain ⟨-, -, hge⟩ := (fge_iff _ _).mp hge
  obtain ⟨-, -, hlt⟩ := (flt_iff _ _).mp hlt
  rw [← units_le_units_iff] at hge
  rw [← units_lt_units_iff, units_u2f hn] at hlt
  have hzero : units 0 = 0 := rfl
  rw [ftruncU, ftruncMag, Nat.div_lt_iff_lt_mul (by decide), ← natAbs_units]
  omega

/-- A masked table index is below the table's size (41_mapper.md R144). -/
theorem index_lt_tableSize (c : CfgRegs) (a p : F32) : (c.index a p).1 < c.tableSize := by
  have hpos : 0 < c.tableSize := Nat.two_pow_pos _
  have hmask : c.mask.toNat ≤ c.tableSize - 1 := by
    rw [CfgRegs.mask, BitVec.toNat_ofNat]; exact Nat.mod_le _ _
  have hand : (c.index a p).1 ≤ c.mask.toNat := by
    rw [CfgRegs.index, BitVec.toNat_and]; exact Nat.and_le_right
  omega

/-- The table and the quarter period behind it fit the physical depth (10_state.md R30, R43). -/
theorem add_quarter_lt_lutDepth {b : Build} {c : CfgRegs} (hlow : 2 ≤ c.log2n.toNat)
    (hhigh : c.log2n.toNat ≤ b.log2nMax) {k : Nat} (hk : k < c.tableSize) :
    k + c.quarter < b.lutDepth := by
  have hfour : c.tableSize = 4 * 2 ^ (c.log2n.toNat - 2) := by
    rw [CfgRegs.tableSize, ← Nat.pow_add' 2 _ 2, Nat.sub_add_cancel hlow]
  have hmono : c.tableSize ≤ 2 ^ (b.log2nMax : Nat) := Nat.pow_le_pow_right (by decide) hhigh
  rw [CfgRegs.quarter, Build.lutDepth]
  omega

theorem mem_of_cellsGet? {n : Nat} {m : Cells n} {k : Nat} {v : BitVec n}
    (h : cellsGet? m k = some v) : (k, v) ∈ m := by
  induction m with
  | nil => simp at h
  | cons c rest ih =>
    obtain ⟨a, w⟩ := c
    simp only [cellsGet?] at h
    split at h
    next hak => cases h; subst hak; exact List.mem_cons_self
    next => exact List.mem_cons_of_mem _ (ih h)

/-- No capacity is above CAP_MAX (20_memory.md R60). -/
theorem capVal_le_capMax {s : State} (hinv : Inv s) (row : Nat) :
    (s.capVal row).toNat ≤ s.build.capMax := by
  obtain ⟨-, hcap, -⟩ := hinv.memSpace
  cases hget : cellsGet? s.mem.cap row with
  | none => simp [State.capVal, cellsGetZ, hget]
  | some v =>
    simpa [State.capVal, cellsGetZ, hget] using (hcap _ (mem_of_cellsGet? hget)).2

theorem pixelSize_le_rowsMax {s : State} (hinv : Inv s) :
    s.cfg.pixelSize.toNat ≤ s.build.rowsMax := by
  obtain ⟨-, ⟨-, hpixel⟩, -⟩ := hinv.cfg
  exact hpixel

/-- What a Plot inside the grid needs of the state; it reads `build`, `cfg` and `mem` only. -/
structure PlotInSpace (s : State) : Prop where
  grid : s.cfg.pixelSize.toNat ≤ s.build.rowsMax
  caps : ∀ row, (s.capVal row).toNat ≤ s.build.capMax

theorem plotInSpace_of_inv {s : State} (hinv : Inv s) : PlotInSpace s :=
  ⟨pixelSize_le_rowsMax hinv, capVal_le_capMax hinv⟩

theorem PlotInSpace.congr {s t : State} (h : PlotInSpace s) (hbuild : t.build = s.build)
    (hcfg : t.cfg = s.cfg) (hmem : t.mem = s.mem) : PlotInSpace t := by
  refine ⟨?_, fun row => ?_⟩
  · rw [hbuild, hcfg]; exact h.grid
  · rw [State.capVal, hbuild, hmem]; exact h.caps row

/-! ### Outcomes -/

/-- The step goes on: its outcome is a next state. -/
def Answers (o : Out) : Prop := ∃ t, o = .next t

theorem answers_next (s : State) : Answers (.next s) := ⟨s, rfl⟩

theorem answers_reject (s : State) (c : Cause) (p : PortId) : Answers (s.reject c p) :=
  answers_next _

theorem answers_inMode {s : State} {m : Mode} {effect : Out} (h : Answers effect) :
    Answers (s.inMode m effect) := by
  unfold State.inMode
  split
  · exact h
  · exact answers_reject _ _ _

theorem answers_holdUntil {s : State} {ready : Bool} {effect : Out} (h : Answers effect) :
    Answers (s.holdUntil ready effect) := by
  unfold State.holdUntil
  split
  · exact h
  · exact answers_next s

theorem answers_orFault {α : Type} {r : Except Fault α} {k : α → Out} (hr : ∃ a, r = .ok a)
    (hk : ∀ a, Answers (k a)) : Answers (orFault r k) := by
  obtain ⟨a, rfl⟩ := hr
  exact hk a

/-! ### Commands -/

theorem writeLut_ok {s : State} {k : Nat} (v : F32) (h : k < s.build.lutDepth) :
    ∃ t, s.writeLut k v = .ok t := ⟨_, if_pos h⟩

theorem writeCap_ok {s : State} {row : Nat} (v : BitVec 11) (h : row < s.build.rowsMax) :
    ∃ t, s.writeCap row v = .ok t := ⟨_, if_pos h⟩

theorem readCnt_ok {s : State} (b : BankId) {row : Nat} (h : row < s.build.rowsMax) :
    s.readCnt b row = .ok (s.cntVal b row) := if_pos h

theorem execCfgw_answers (reg : BitVec 4) (value : BitVec 32) (s : State) :
    Answers (execCfgw reg value s) := by
  unfold execCfgw
  split
  · exact answers_reject _ _ _
  · refine answers_inMode ?_
    split
    · exact answers_next _
    · exact answers_reject _ _ _

theorem execLutw_answers (idx : BitVec 17) (value : F32) (s : State) :
    Answers (execLutw idx value s) := by
  refine answers_inMode ?_
  split
  · exact answers_reject _ _ _
  next hidx => exact answers_orFault (writeLut_ok value (by omega)) fun t => answers_next _

theorem execCapw_answers (row : BitVec 10) (cap : BitVec 11) (s : State) :
    Answers (execCapw row cap s) := by
  refine answers_inMode ?_
  split
  · exact answers_reject _ _ _
  next hrow => exact answers_orFault (writeCap_ok cap (by omega)) fun t => answers_next _

theorem execClear_answers (s : State) : Answers (execClear s) := by
  refine answers_inMode ?_
  split
  · exact answers_reject _ _ _
  · exact answers_next _

theorem execGen_answers (h : LaneId) (time : F32) (s : State) : Answers (execGen h time s) := by
  refine answers_inMode ?_
  split
  · exact answers_reject _ _ _
  · exact answers_next _

theorem execPlot_answers (row x : BitVec 10) (colour : Colour) {s : State} (hs : PlotInSpace s) :
    Answers (execPlot row x colour s) := by
  refine answers_inMode ?_
  split
  · exact answers_reject _ _ _
  next hgrid =>
    have hrow : row.toNat < s.build.rowsMax := by have := hs.grid; omega
    exact answers_orFault (plot_ok x colour hrow (hs.caps _)) fun t => answers_next _

/-- Under `Inv` the entries of a row are at most its capacity, so SLINE reads inside the space. -/
theorem execSline_answers (row : BitVec 10) {s : State} (hinv : Inv s) : Answers (execSline row s) := by
  unfold execSline
  split
  · exact answers_reject _ _ _
  next hgrid =>
    have hrow : row.toNat < s.build.rowsMax := by have := pixelSize_le_rowsMax hinv; omega
    obtain ⟨hcount, -, -⟩ := hinv.rows s.displayBank row.toNat hrow
    have hcnt := hcount.trans (capVal_le_capMax hinv _)
    rw [readCnt_ok _ hrow, orFault_ok, readEntries_row hrow hcnt]
    exact answers_next _

theorem exec_answers (i : Instr) {s : State} (hinv : Inv s) : Answers (exec i s) := by
  cases i with
  | nop => exact answers_next _
  | cfgw reg value => exact execCfgw_answers reg value s
  | lutw idx value => exact execLutw_answers idx value s
  | capw row cap => exact execCapw_answers row cap s
  | lock => exact answers_inMode (answers_next _)
  | stat => exact answers_next _
  | clear => exact execClear_answers s
  | plot row x colour => exact execPlot_answers row x colour (plotInSpace_of_inv hinv)
  | gen h time => exact execGen_answers h time s
  | join => exact answers_inMode (answers_holdUntil (answers_next _))
  | swap => exact answers_inMode (answers_holdUntil (answers_next _))
  | sline row => exact execSline_answers row hinv
  | vsync => exact answers_next _

/-! ### Lane steps -/

theorem inGrid_iff (c : CfgRegs) (p : Sample) : c.inGrid p = true ↔
    (fge p.x 0 = true ∧ flt p.x (u2f c.pixelSize.toNat) = true) ∧
    (fge p.y 0 = true ∧ flt p.y (u2f c.pixelSize.toNat) = true) := by
  simp [CfgRegs.inGrid]

/-- A sample in the grid is plotted to a row of the space (41_mapper.md R147). -/
theorem emit_ok {s : State} (hs : PlotInSpace s) (p : Sample) : ∃ t, s.emit p = .ok t := by
  unfold State.emit
  split
  next hgrid =>
    obtain ⟨-, hge, hlt⟩ := (inGrid_iff _ _).mp hgrid
    have hsize : s.cfg.pixelSize.toNat < 2 ^ 24 := s.cfg.pixelSize.isLt.trans (by decide)
    exact plot_ok _ _ ((ftruncU_lt hsize hge hlt).trans_le hs.grid) (hs.caps _)
  · exact ⟨_, rfl⟩

theorem laneSample_ok_of_inv {s : State} (hinv : Inv s) (h : LaneId) :
    ∃ p, s.laneSample h = .ok p := by
  obtain ⟨⟨hlow, hhigh⟩, -⟩ := hinv.cfg
  exact laneSample_ok (add_quarter_lt_lutDepth hlow hhigh (index_lt_tableSize _ _ _))
    (add_quarter_lt_lutDepth hlow hhigh (index_lt_tableSize _ _ _))

/-- NUM leaves what a Plot depends on unchanged (60_exceptions.md R215). -/
theorem raiseNumIf_frame (s : State) (ovf : Bool) : (s.raiseNumIf ovf).build = s.build ∧
    (s.raiseNumIf ovf).cfg = s.cfg ∧ (s.raiseNumIf ovf).mem = s.mem := by
  cases ovf <;> exact ⟨rfl, rfl, rfl⟩

theorem iterationStep_answers (h : LaneId) {s : State} (hinv : Inv s) :
    Answers (iterationStep h s) := by
  refine answers_orFault (laneSample_ok_of_inv hinv h) fun p => ?_
  obtain ⟨hbuild, hcfg, hmem⟩ := raiseNumIf_frame s (s.cfg.indices (s.lane h)).2.2
  have hplot := (plotInSpace_of_inv hinv).congr (t := (s.raiseNumIf
    (s.cfg.indices (s.lane h)).2.2).setLane h ((s.lane h).iterated p))
    (by simp [hbuild]) (by simp [hcfg]) (by simp [hmem])
  exact answers_orFault (emit_ok hplot p) answers_next

theorem laneStep_answers (h : LaneId) {s : State} (hinv : Inv s) : Answers (laneStep h s) := by
  unfold laneStep
  split
  · split
    · exact iterationStep_answers h hinv
    · exact answers_next _
  · exact answers_next _

/-! ### Steps -/

theorem portStep_answers (p : PortId) {s : State} (hinv : Inv s) : Answers (portStep p s) := by
  unfold portStep
  split
  · exact answers_next _
  · split
    · exact answers_reject _ _ _
    next i _ => exact exec_answers i hinv

theorem runTurn_answers (t : Turn) {s : State} (hinv : Inv s) : Answers (runTurn t s) := by
  cases t with
  | host => exact portStep_answers .h hinv
  | sink => exact portStep_answers .s hinv
  | lane h => exact laneStep_answers h hinv
  | resetPin => exact answers_next _

/-- The turn fields are no part of the invariant. -/
theorem inv_passTurn {s : State} (hinv : Inv s) : Inv s.passTurn := by
  unfold State.passTurn
  split <;> exact ⟨hinv.build, hinv.cfg, hinv.status, hinv.memWf, hinv.memSpace, hinv.rows,
    hinv.cfgEmpty, hinv.cfgIdle, hinv.lanes⟩

/-- Settles O48: agent by agent and command by command, every index computed under `Inv` is inside
its space. -/
theorem noStepEverStops : Obligations.NoStepEverStops := fun s hinv =>
  runTurn_answers s.currentTurn (inv_passTurn hinv)

end Sys2Proof.Machine
end

section
/-! What one turn can do to the state, said once (20_memory.md R65): `Effect` lists what a command can do
before its port accepts it, and `Kept` is what every turn but the reset pin's leaves as it was. -/

namespace Sys2Proof.Machine

/-! ### Commands -/

/-- What a command can do to the block before its port accepts it, with the tests it has then passed
(30_encoding.md R97; 60_exceptions.md R217, R223). -/
inductive Effect (s : State) : State → Prop
  | nothing : Effect s s
  | raised (c : Cause) : Effect s (s.raise c)
  | configured (reg : BitVec 4) (value : BitVec 32) :
      s.mode = .cfg → legalCfg s.build reg value = true →
      Effect s { s with cfg := s.cfg.write reg value }
  | tableLoaded (k : Nat) (v : F32) : s.mode = .cfg → k < s.build.lutDepth →
      Effect s (s.setMem { s.mem with lut := cellsPut s.mem.lut k v })
  | capacitySet (row : Nat) (cap : BitVec 11) :
      s.mode = .cfg → row < s.build.rowsMax → cap.toNat ≤ s.build.capMax →
      Effect s (s.setMem { s.mem with cap := cellsPutZ s.mem.cap row cap })
  | locked : s.mode = .cfg → Effect s (s.setFlag modeBit true)
  | respondedH (ws : List (BitVec 32)) : Effect s (s.respondH ws)
  | cleared : s.mode = .run → s.anyBusy = false →
      Effect s (s.setMem (s.mem.clearCounts s.writeBank s.build.rowsMax))
  | plotted {row : Nat} {x : BitVec 10} {c : Colour} {t : State} :
      s.mode = .run → s.plot row x c = .ok t → Effect s t
  | started (g : LaneId) (time : F32) : s.mode = .run → s.busy g = false →
      Effect s ((s.setLane g (s.cfg.laneStart g time)).setFlag (busyBit g)
        (decide (s.cfg.halfLo g < s.cfg.halfHi g)))
  | swapped : s.mode = .run → s.swapReady = true →
      Effect s ((s.setFlag wbBit (!s.flag wbBit)).setFlag vspBit false)
  | respondedS (ws : List (BitVec 16)) : Effect s (s.respondS ws)
  | refusedRow : Effect s ((s.respondS [0]).raise .range)
  | notified : Effect s (s.setFlag vspBit true)

/-- A command is held, so that nothing changes, or takes an effect and is accepted (00_scope.md R11). -/
theorem exec_effect {i : Instr} {s t : State} (h : exec i s = .next t) :
    t = s ∨ ∃ u, Effect s u ∧ t = u.accept i.port := by
  have effect {u : State} {p : PortId} (hu : Effect s u) (ht : t = u.accept p) :
      t = s ∨ ∃ u, Effect s u ∧ t = u.accept p := .inr ⟨u, hu, ht⟩
  cases i with
  | nop => cases h; exact effect .nothing rfl
  | cfgw reg value =>
    rcases execCfgw_cases h with ht | ht | ht | ⟨hmode, -, hlegal, ht⟩
    · exact effect (.raised _) ht
    · exact effect (.raised _) ht
    · exact effect (.raised _) ht
    · exact effect (.configured reg value hmode hlegal) ht
  | lutw idx value =>
    rcases execLutw_cases h with ht | ht | ⟨hmode, hidx, ht⟩
    · exact effect (.raised _) ht
    · exact effect (.raised _) ht
    · exact effect (.tableLoaded _ value hmode hidx) ht
  | capw row cap =>
    rcases execCapw_cases h with ht | ht | ⟨hmode, hrow, hcap, ht⟩
    · exact effect (.raised _) ht
    · exact effect (.raised _) ht
    · exact effect (.capacitySet _ cap hmode hrow hcap) ht
  | lock =>
    rcases execLock_cases h with ht | ⟨hmode, ht⟩
    · exact effect (.raised _) ht
    · exact effect (.locked hmode) ht
  | stat => cases h; exact effect (.respondedH _) rfl
  | clear =>
    rcases execClear_cases h with ht | ⟨hmode, hidle, ht⟩
    · exact effect (.raised _) ht
    · exact effect (.cleared hmode hidle) ht
  | plot row x colour =>
    rcases execPlot_cases h with ht | ht | ⟨hmode, -, -, u, hplot, ht⟩
    · exact effect (.raised _) ht
    · exact effect (.raised _) ht
    · exact effect (.plotted hmode hplot) ht
  | gen g time =>
    rcases execGen_cases h with ht | ⟨hmode, hidle, ht⟩
    · exact effect (.raised _) ht
    · exact effect (.started g time hmode hidle) ht
  | join =>
    rcases execJoin_cases h with ht | ⟨-, -, ht⟩ | ⟨-, -, ht⟩
    · exact effect (.raised _) ht
    · exact effect .nothing ht
    · exact .inl ht
  | swap =>
    rcases execSwap_cases h with ht | ⟨hmode, hready, ht⟩ | ⟨-, -, ht⟩
    · exact effect (.raised _) ht
    · exact effect (.swapped hmode hready) ht
    · exact .inl ht
  | sline row =>
    rcases execSline_cases h with ⟨-, ht⟩ | ⟨-, -, ht⟩
    · exact effect .refusedRow ht
    · exact effect (.respondedS _) ht
  | vsync => cases h; exact effect .notified rfl

/-- Every row of the opcode map reads commands of its own port (30_encoding.md R93). -/
theorem port_read_of_mem_opcodeMap {r : Row} (hr : r ∈ opcodeMap) (w : Word) :
    (r.read w).port = r.port := by
  simp only [opcodeMap, List.mem_cons, List.not_mem_nil, or_false] at hr
  rcases hr with rfl | rfl | rfl | rfl | rfl | rfl | rfl | rfl | rfl | rfl | rfl | rfl | rfl <;> rfl

/-- A word decodes to a command of the port it is presented on (30_encoding.md R94). -/
theorem port_of_decodeOn {p : PortId} {w : Word} {i : Instr} (h : decodeOn p w = .ok i) :
    i.port = p := by
  obtain ⟨r, hr, hport, -, hread, -⟩ := decodeOn_eq_ok h
  obtain ⟨hmem, -⟩ := rowOf_port hr
  rw [← hread, port_read_of_mem_opcodeMap hmem, hport]

/-- A port's turn changes nothing, or takes one effect and accepts one word (10_state.md R54). -/
theorem portStep_effect {p : PortId} {s t : State} (h : portStep p s = .next t) :
    t = s ∨ ∃ u, Effect s u ∧ t = u.accept p := by
  unfold portStep at h
  split at h
  · cases h; exact .inl rfl
  · split at h
    · exact .inr ⟨_, .raised .ill, reject_next.mp h⟩
    next i hdec => exact port_of_decodeOn hdec ▸ exec_effect h

/-! ### What a turn keeps -/

/-- The flags that a turn of agent `a`, the reset pin aside, may take from 1 to 0: WB and VSP, and for a
lane its own BUSY bit (10_state.md R33 to R35). -/
def MayClear (a : Turn) (n : Nat) : Prop := n = wbBit ∨ n = vspBit ∨ ∃ h, a = .lane h ∧ n = busyBit h

/-- What a turn of agent `a` leaves as it was, the ports and the model's turn fields aside: the flags it
may not clear, in RUN mode the configuration, the LUT and CAP, and a running lane's registers, unless
the lane is `a` (10_state.md R21, R36, R37). -/
structure Kept (a : Turn) (s t : State) : Prop where
  flags : ∀ n, ¬ MayClear a n → s.flag n = true → t.flag n = true
  config : s.mode = .run → t.cfg = s.cfg ∧ t.mem.lut = s.mem.lut ∧ t.mem.cap = s.mem.cap
  lanes : ∀ h, a ≠ .lane h → s.busy h = true → t.lane h = s.lane h

theorem busyBit_injective {g h : LaneId} (hgh : busyBit g = busyBit h) : g = h := by
  cases g <;> cases h <;> simp_all [busyBit]

theorem State.mode_eq_run_iff (s : State) : s.mode = .run ↔ s.flag modeBit = true := by
  unfold State.mode; split <;> simp_all

theorem State.lane_congr {s t : State} (h0 : t.lane0 = s.lane0) (h1 : t.lane1 = s.lane1)
    (h : LaneId) : t.lane h = s.lane h := by
  cases h
  · exact h0
  · exact h1

section Turns

variable {a : Turn} {s t u : State}

/-- Error bits are sticky (10_state.md R36). -/
theorem not_mayClear_err (a : Turn) (c : Cause) : ¬ MayClear a c.bit := by
  have hlow {n : Nat} (hn : n < 8) : c.bit ≠ n := by unfold Cause.bit; omega
  rintro (h | h | ⟨l, -, h⟩)
  · exact hlow (by decide) h
  · exact hlow (by decide) h
  · exact hlow (by cases l <;> decide) h

/-- MODE never returns to CFG (10_state.md R32). -/
theorem not_mayClear_mode (a : Turn) : ¬ MayClear a modeBit := by
  rintro (h | h | ⟨l, -, h⟩)
  · exact absurd h (by decide)
  · exact absurd h (by decide)
  · exact absurd h (by cases l <;> decide)

/-- A BUSY bit is its lane's to clear (10_state.md R35). -/
theorem not_mayClear_busy {l : LaneId} (hl : a ≠ .lane l) : ¬ MayClear a (busyBit l) := by
  rintro (h | h | ⟨g, ha, h⟩)
  · exact absurd h (by cases l <;> decide)
  · exact absurd h (by cases l <;> decide)
  · exact hl (busyBit_injective h ▸ ha)

theorem Kept.err (h : Kept a s t) {c : Cause} (hc : s.err c = true) : t.err c = true :=
  h.flags c.bit (not_mayClear_err a c) hc

theorem Kept.mode (h : Kept a s t) (hs : s.mode = .run) : t.mode = .run := by
  rw [State.mode_eq_run_iff] at hs ⊢
  exact h.flags modeBit (not_mayClear_mode a) hs

theorem Kept.busy (h : Kept a s t) {l : LaneId} (hl : a ≠ .lane l) (hb : s.busy l = true) :
    t.busy l = true := h.flags (busyBit l) (not_mayClear_busy hl) hb

theorem Kept.refl (a : Turn) (s : State) : Kept a s s :=
  ⟨fun _ _ h => h, fun _ => ⟨rfl, rfl, rfl⟩, fun _ _ _ => rfl⟩

theorem Kept.trans (hst : Kept a s t) (htu : Kept a t u) : Kept a s u where
  flags n hn hs := htu.flags n hn (hst.flags n hn hs)
  config hrun := by
    obtain ⟨hcfg, hlut, hcap⟩ := hst.config hrun
    obtain ⟨hcfg', hlut', hcap'⟩ := htu.config (hst.mode hrun)
    exact ⟨hcfg'.trans hcfg, hlut'.trans hlut, hcap'.trans hcap⟩
  lanes l hl hb := (htu.lanes l hl (hst.busy hl hb)).trans (hst.lanes l hl hb)

/-- An update of nothing but the ports, the responses, the turn fields or the slot banks. -/
theorem Kept.of_eq (hstatus : t.status = s.status) (hcfg : t.cfg = s.cfg)
    (hlut : t.mem.lut = s.mem.lut) (hcap : t.mem.cap = s.mem.cap) (h0 : t.lane0 = s.lane0)
    (h1 : t.lane1 = s.lane1) : Kept a s t where
  flags n _ h := (State.flag_congr hstatus n).trans h
  config _ := ⟨hcfg, hlut, hcap⟩
  lanes l _ _ := State.lane_congr h0 h1 l

/-- An update of what only CFG mode lets a command write. -/
theorem Kept.of_cfgMode (hmode : s.mode = .cfg) (hstatus : t.status = s.status)
    (h0 : t.lane0 = s.lane0) (h1 : t.lane1 = s.lane1) : Kept a s t where
  flags n _ h := (State.flag_congr hstatus n).trans h
  config hrun := by rw [hmode] at hrun; cases hrun
  lanes l _ _ := State.lane_congr h0 h1 l

theorem kept_setFlag_of_mayClear (s : State) {n : Nat} (b : Bool) (hn : MayClear a n) :
    Kept a s (s.setFlag n b) where
  flags m hm hset := by
    rw [State.flag_setFlag_other s b (by rintro rfl; exact hm hn)]
    exact hset
  config _ := ⟨rfl, rfl, rfl⟩
  lanes l _ _ := State.lane_congr rfl rfl l

theorem kept_setFlag_true (a : Turn) (s : State) {n : Nat} (hn : n < 32) :
    Kept a s (s.setFlag n true) where
  flags m _ hset := by
    rw [State.flag_setFlag]
    split
    · simpa using hn
    · exact hset
  config _ := ⟨rfl, rfl, rfl⟩
  lanes l _ _ := State.lane_congr rfl rfl l

theorem kept_raise (a : Turn) (s : State) (c : Cause) : Kept a s (s.raise c) :=
  kept_setFlag_true a s (by cases c <;> decide)

/-- A lane's registers may be written by the lane, and by anyone while it is idle. -/
theorem kept_setLane (s : State) {g : LaneId} (r : LaneRegs) (hg : a = .lane g ∨ s.busy g = false) :
    Kept a s (s.setLane g r) where
  flags n _ h := by simpa using h
  config _ := by simp
  lanes l hl hb := by
    refine State.lane_setLane_other s r ?_
    rintro rfl
    rcases hg with ha | hidle
    · exact hl ha
    · rw [hidle] at hb; cases hb

theorem kept_accept (a : Turn) (s : State) (p : PortId) : Kept a s (s.accept p) :=
  .of_eq (by simp) (by simp) (by simp) (by simp) (by simp) (by simp)

/-- A Plot replaces a bank of the memories and nothing else (42_slots.md R171). -/
theorem plot_eq_setMem {row : Nat} {x : BitVec 10} {c : Colour} (h : s.plot row x c = .ok t) :
    ∃ m : Memory, t = s.setMem m ∧ m.lut = s.mem.lut ∧ m.cap = s.mem.cap := by
  obtain ⟨-, ⟨-, rfl⟩ | ⟨k, -, -, rfl⟩ | ⟨k, -, -, rfl⟩⟩ := plot_cases h
  · exact ⟨t.mem, rfl, rfl, rfl⟩
  · exact ⟨_, rfl, by simp [Memory.putSlot], by simp [Memory.putSlot]⟩
  · exact ⟨_, rfl, by simp [Memory.putSlot, Memory.putCnt], by simp [Memory.putSlot, Memory.putCnt]⟩

theorem kept_plot (a : Turn) {row : Nat} {x : BitVec 10} {c : Colour} (h : s.plot row x c = .ok t) :
    Kept a s t := by
  obtain ⟨m, rfl, hlut, hcap⟩ := plot_eq_setMem h
  exact .of_eq rfl rfl hlut hcap rfl rfl

/-- Starting an idle lane writes its registers and its BUSY bit, which was 0. -/
theorem kept_start (a : Turn) (s : State) {g : LaneId} (r : LaneRegs) (b : Bool)
    (hidle : s.busy g = false) : Kept a s ((s.setLane g r).setFlag (busyBit g) b) := by
  have hlane := kept_setLane (a := a) s r (.inr hidle)
  refine ⟨fun n hkeep hn => ?_, hlane.config, fun l hl hb => ?_⟩
  · rw [State.flag_setFlag_other]
    · exact hlane.flags n hkeep hn
    · rintro rfl
      exact absurd hn (by rw [State.busy] at hidle; simp [hidle])
  · exact (State.lane_congr rfl rfl l).trans (hlane.lanes l hl hb)

theorem Effect.kept (a : Turn) (h : Effect s t) : Kept a s t := by
  cases h with
  | nothing => exact .refl a s
  | raised c => exact kept_raise a s c
  | configured reg value hmode => exact .of_cfgMode hmode rfl rfl rfl
  | tableLoaded k v hmode => exact .of_cfgMode hmode rfl rfl rfl
  | capacitySet row cap hmode => exact .of_cfgMode hmode rfl rfl rfl
  | locked => exact kept_setFlag_true a s (by decide)
  | respondedH ws => exact .of_eq rfl rfl rfl rfl rfl rfl
  | cleared =>
    exact .of_eq rfl rfl (by simp [Memory.clearCounts]) (by simp [Memory.clearCounts]) rfl rfl
  | plotted _ hplot => exact kept_plot a hplot
  | started g time _ hidle => exact kept_start a s _ _ hidle
  | swapped =>
    exact (kept_setFlag_of_mayClear s _ (.inl rfl)).trans
      (kept_setFlag_of_mayClear _ false (.inr (.inl rfl)))
  | respondedS ws => exact .of_eq rfl rfl rfl rfl rfl rfl
  | refusedRow =>
    have hresponse : Kept a s (s.respondS [0]) := .of_eq rfl rfl rfl rfl rfl rfl
    exact hresponse.trans (kept_raise a _ .range)
  | notified => exact kept_setFlag_true a s (by decide)

theorem portStep_kept (a : Turn) {p : PortId} (h : portStep p s = .next t) : Kept a s t := by
  obtain rfl | ⟨u, hu, rfl⟩ := portStep_effect h
  · exact .refl a t
  · exact (hu.kept a).trans (kept_accept a u p)

theorem kept_raiseNumIf (a : Turn) (s : State) (ovf : Bool) : Kept a s (s.raiseNumIf ovf) := by
  cases ovf with
  | false => exact .refl a s
  | true => exact kept_raise a s .num

theorem kept_emit (a : Turn) {p : Sample} (h : s.emit p = .ok t) : Kept a s t := by
  obtain ⟨-, hplot⟩ | ⟨-, rfl⟩ := emit_cases h
  · exact kept_plot a hplot
  · exact kept_raise a s .range

theorem laneStep_kept {h : LaneId} (ht : laneStep h s = .next t) : Kept (.lane h) s t := by
  obtain ⟨-, rfl⟩ | ⟨-, -, hiter⟩ | ⟨-, -, hend⟩ := laneStep_cases ht
  · exact .refl _ t
  · obtain ⟨p, -, hemit⟩ := iterationStep_cases hiter
    exact ((kept_raiseNumIf _ s _).trans (kept_setLane _ _ (.inl rfl))).trans (kept_emit _ hemit)
  · obtain ⟨-, rfl⟩ | ⟨-, rfl⟩ := endOfCurveStep_cases hend
    · exact (kept_setLane s _ (.inl rfl)).trans
        (kept_setFlag_of_mayClear _ false (.inr (.inr ⟨h, rfl, rfl⟩)))
    · exact kept_setLane s _ (.inl rfl)

theorem kept_passTurn (a : Turn) (s : State) : Kept a s s.passTurn :=
  .of_eq (by simp) (by simp) (by simp) (by simp) (by simp) (by simp)

/-- What every step but the reset pin's keeps, agent by agent. -/
theorem step_kept (h : step s = .next t) (hreset : s.currentTurn ≠ .resetPin) :
    Kept s.currentTurn s t := by
  refine (kept_passTurn _ s).trans ?_
  unfold step at h
  generalize s.currentTurn = a at *
  cases a with
  | host => exact portStep_kept _ h
  | sink => exact portStep_kept _ h
  | lane l => exact laneStep_kept h
  | resetPin => exact absurd rfl hreset

/-! ### Ports -/

theorem State.port_congr (hH : t.portH = s.portH) (hS : t.portS = s.portS) (p : PortId) :
    t.port p = s.port p := by
  cases p
  · exact hH
  · exact hS

@[simp] theorem State.port_setLane (s : State) (g : LaneId) (r : LaneRegs) (p : PortId) :
    (s.setLane g r).port p = s.port p := State.port_congr (by simp) (by simp) p

@[simp] theorem State.port_setFlag (s : State) (n : Nat) (b : Bool) (p : PortId) :
    (s.setFlag n b).port p = s.port p := State.port_congr rfl rfl p

@[simp] theorem State.port_raise (s : State) (c : Cause) (p : PortId) :
    (s.raise c).port p = s.port p := State.port_congr rfl rfl p

@[simp] theorem State.port_passTurn (s : State) (p : PortId) : s.passTurn.port p = s.port p :=
  State.port_congr (by simp) (by simp) p

theorem plot_port {row : Nat} {x : BitVec 10} {c : Colour} (h : s.plot row x c = .ok t)
    (p : PortId) : t.port p = s.port p := by
  obtain ⟨m, rfl, -, -⟩ := plot_eq_setMem h
  exact State.port_congr rfl rfl p

/-- Only acceptance moves a port (10_state.md R54(a)). -/
theorem Effect.port (h : Effect s t) (p : PortId) : t.port p = s.port p := by
  cases h with
  | plotted _ hplot => exact plot_port hplot p
  | started g time => simp
  | _ => exact State.port_congr rfl rfl p

theorem laneStep_port {h : LaneId} (ht : laneStep h s = .next t) (p : PortId) :
    t.port p = s.port p := by
  obtain ⟨-, rfl⟩ | ⟨-, -, hiter⟩ | ⟨-, -, hend⟩ := laneStep_cases ht
  · rfl
  · obtain ⟨q, -, hemit⟩ := iterationStep_cases hiter
    have hbefore (ovf : Bool) (r : LaneRegs) :
        ((s.raiseNumIf ovf).setLane h r).port p = s.port p := by cases ovf <;> simp [State.raiseNumIf]
    obtain ⟨-, hplot⟩ | ⟨-, rfl⟩ := emit_cases hemit
    · rw [plot_port hplot, hbefore]
    · rw [State.port_raise, hbefore]
  · obtain ⟨-, rfl⟩ | ⟨-, rfl⟩ := endOfCurveStep_cases hend <;> simp

/-- The reset pin discards the one word presented, if any (70_reset_and_hazards.md R240; log 7). -/
theorem discard_cases (q : Port) : q.discard = q ∨ q.discard = { q with cp := q.cp + 1 } := by
  unfold Port.discard
  split
  · exact .inr rfl
  · exact .inl rfl

/-- In a port's turn that port may move and the other stays. -/
theorem portStep_port {p : PortId} (h : portStep p s = .next t) (r : PortId) :
    t.port r = s.port r ∨ (r = p ∧ t.port r = { s.port r with cp := (s.port r).cp + 1 }) := by
  obtain rfl | ⟨u, hu, rfl⟩ := portStep_effect h
  · exact .inl rfl
  · by_cases hr : r = p
    · subst hr
      exact .inr ⟨rfl, by rw [State.port_accept_same, hu.port]⟩
    · exact .inl (by rw [State.port_accept_other u hr, hu.port])

/-- A port stays, or passes one word in its agent's turn or the reset pin's. -/
theorem runTurn_port {a : Turn} (h : runTurn a s = .next t) (p : PortId) :
    t.port p = s.port p ∨ ((a = p.turn ∨ a = .resetPin) ∧
      t.port p = { s.port p with cp := (s.port p).cp + 1 }) := by
  cases a with
  | host => exact (portStep_port h p).imp_right fun ⟨hp, ht⟩ => ⟨.inl (hp ▸ rfl), ht⟩
  | sink => exact (portStep_port h p).imp_right fun ⟨hp, ht⟩ => ⟨.inl (hp ▸ rfl), ht⟩
  | lane l => exact .inl (laneStep_port h p)
  | resetPin =>
    cases h
    cases p
    · exact (discard_cases s.portH).imp_right fun ht => ⟨.inr rfl, ht⟩
    · exact (discard_cases s.portS).imp_right fun ht => ⟨.inr rfl, ht⟩

end Turns

/-! ### The statements -/

/-- Settles O49: neither an error bit nor MODE is among the flags a turn may clear. -/
theorem onlyResetClearsErrorsAndMode : Obligations.OnlyResetClearsErrorsAndMode := by
  intro s t h hreset
  have hkept := step_kept h hreset
  exact ⟨fun c hc => hkept.err hc, hkept.mode⟩

/-- Settles O50: what writes the configuration, the LUT or CAP has passed the test for CFG mode. -/
theorem configurationIsFrozenInRunMode : Obligations.ConfigurationIsFrozenInRunMode :=
  fun _ _ h hreset => (step_kept h hreset).config

/-- Settles O53: the one command that writes a lane's registers or BUSY bit is GEN, on an idle lane. -/
theorem nobodyDisturbsARunningLane : Obligations.NobodyDisturbsARunningLane := by
  intro s t l h hreset hother hbusy
  have hkept := step_kept h hreset
  exact ⟨hkept.lanes l hother hbusy, hkept.busy hother hbusy⟩

/-- Settles O54: a port changes by acceptance in its agent's turn, or by the reset pin's discard. -/
theorem commandListsNeverChange : Obligations.CommandListsNeverChange := by
  intro s t p h
  obtain ht | ⟨hturn, ht⟩ := runTurn_port h p
  · rw [ht, State.port_passTurn]
    exact ⟨rfl, .inl rfl⟩
  · rw [ht, State.port_passTurn]
    exact ⟨rfl, .inr ⟨rfl, hturn⟩⟩

end Sys2Proof.Machine
end

section
/-! The word formats of 10_state.md: the slot entry (R47) and STATUS (R31), read as numbers. -/

namespace Sys2Proof.Machine

/-! ### The slot entry (10_state.md R47) -/

theorem toNat_packEntry (x : BitVec 10) (c : Colour) :
    (packEntry x c).toNat = x.toNat * 64 + c.toNat := by
  have hx := x.isLt
  have hc : c.toNat < 2 ^ 6 := c.isLt
  have hor := Nat.shiftLeft_add_eq_or_of_lt hc x.toNat
  simp only [packEntry, BitVec.toNat_or, BitVec.toNat_shiftLeft, BitVec.toNat_setWidth,
    Nat.mod_eq_of_lt (show x.toNat < 2 ^ 16 by omega),
    Nat.mod_eq_of_lt (show c.toNat < 2 ^ 16 by omega)]
  rw [Nat.mod_eq_of_lt (by rw [Nat.shiftLeft_eq]; omega), ← hor, Nat.shiftLeft_eq]

theorem toNat_entryX (e : Entry) : (entryX e).toNat = e.toNat / 64 := by
  have he := e.isLt
  simp only [entryX, BitVec.extractLsb'_toNat, Nat.shiftRight_eq_div_pow]
  omega

theorem toNat_entryColour (e : Entry) : (entryColour e).toNat = e.toNat % 64 := by
  simp only [entryColour, BitVec.extractLsb'_toNat, Nat.shiftRight_zero]

@[simp] theorem entryX_packEntry (x : BitVec 10) (c : Colour) : entryX (packEntry x c) = x := by
  have hc := c.isLt
  apply BitVec.eq_of_toNat_eq
  rw [toNat_entryX, toNat_packEntry]
  omega

theorem entryColour_packEntry (x : BitVec 10) (c : Colour) : entryColour (packEntry x c) = c := by
  have hc := c.isLt
  apply BitVec.eq_of_toNat_eq
  rw [toNat_entryColour, toNat_packEntry]
  omega

theorem packEntry_entryX_entryColour (e : Entry) : packEntry (entryX e) (entryColour e) = e := by
  apply BitVec.eq_of_toNat_eq
  rw [toNat_packEntry, toNat_entryX, toNat_entryColour, Nat.div_add_mod']

/-- Settles O25: the two fields are quotient and remainder by 64. -/
theorem entryFieldsRoundTrip : Obligations.EntryFieldsRoundTrip :=
  ⟨fun x c => ⟨entryX_packEntry x c, entryColour_packEntry x c, toNat_packEntry x c⟩,
    packEntry_entryX_entryColour⟩

/-! ### STATUS (10_state.md R31) -/

/-- The low bits of a number, at their places, add up to its remainder. -/
theorem sum_testBit (x n : Nat) : ∑ i ∈ Finset.range n, 2 ^ i * (x.testBit i).toNat = x % 2 ^ n := by
  induction n with
  | zero => simp [Nat.mod_one]
  | succ n ih => rw [Finset.sum_range_succ, ih, Nat.toNat_testBit, Nat.mod_pow_succ]

/-- The positions of the named bits: 0, 1, 2, 4, 5 and 8 to 11. -/
def namedPositions : Finset Nat := {0, 1, 2, 4, 5, 8, 9, 10, 11}

theorem namedBits_eq_false_of_notMem : ∀ i ∈ Finset.range 32, i ∉ namedPositions →
    namedBits.getLsbD i = false := by decide

theorem flag_eq_false_of_reserved {s : State} (hs : s.status &&& ~~~ namedBits = 0) {i : Nat}
    (hi : i < 32) (hreserved : namedBits.getLsbD i = false) : s.flag i = false := by
  have hbit : (s.status &&& ~~~ namedBits).getLsbD i = false := by rw [hs]; simp
  simpa only [State.flag, BitVec.getLsbD_and, BitVec.getLsbD_not, hi, hreserved, decide_true,
    Bool.not_false, Bool.true_and, Bool.and_true] using hbit

/-- With the reserved bits 0, STATUS is the sum of its named bits. -/
theorem toNat_status_eq_sum {s : State} (hs : s.status &&& ~~~ namedBits = 0) :
    s.status.toNat = ∑ i ∈ namedPositions, 2 ^ i * (s.flag i).toNat := by
  have hsubset : namedPositions ⊆ Finset.range 32 := by decide
  rw [Finset.sum_subset hsubset fun i hi hnot => by
    rw [flag_eq_false_of_reserved hs (Finset.mem_range.mp hi)
      (namedBits_eq_false_of_notMem i hi hnot)]; rfl]
  calc s.status.toNat = s.status.toNat % 2 ^ 32 := (Nat.mod_eq_of_lt s.status.isLt).symm
    _ = _ := (sum_testBit _ _).symm

theorem mode_toNat (s : State) : (if s.mode = .run then 1 else 0) = (s.flag modeBit).toNat := by
  simp only [State.mode_eq_run_iff]
  cases s.flag modeBit <;> rfl

theorem writeBank_number (s : State) : s.writeBank.number = (s.flag wbBit).toNat := by
  unfold State.writeBank
  cases s.flag wbBit <;> rfl

/-- Settles O18: the sum over the named positions, each flag under the name the spec gives it. -/
theorem statusWordLayout : Obligations.StatusWordLayout := by
  intro s hinv
  rw [toNat_status_eq_sum hinv.status, mode_toNat, writeBank_number]
  simp [namedPositions, State.vsp, State.busy, State.err, modeBit, wbBit, vspBit, busyBit, Cause.bit,
    Cause.code, Nat.add_assoc]

/-! ### Reset (10_state.md R53) -/

/-- From register 2 on, every configuration register is 0 at reset. -/
theorem read_reset_of_two_le : ∀ n, 2 ≤ n → CfgRegs.reset.read n = 0
  | 2, _ | 3, _ | 4, _ | 5, _ | 6, _ | 7, _ | 8, _ | 9, _ | 10, _ | 11, _ => rfl
  | _ + 12, _ => rfl

/-- Settles O44: the registers, STATUS and streams are literals, and CAP and CNT list no element. -/
theorem resetValues : Obligations.ResetValues :=
  ⟨rfl, rfl, read_reset_of_two_le, rfl, rfl, rfl, fun _ => rfl,
    fun b _ => by cases b <;> rfl, rfl, rfl⟩

end Sys2Proof.Machine
end

section
/-! The slot memory (10_state.md R49; 42_slots.md R171, R173): a Plot and a CLEAR replace a bank in RUN
mode, and keep the invariant. -/

namespace Sys2Proof.Machine

/-! ### Rows -/

/-- The x fields of a row are pairwise different, by index. -/
theorem rowEntries_nodup_iff (s : State) (b : BankId) (row : Nat) :
    ((s.rowEntries b row).map entryX).Nodup ↔
      ∀ i < (s.cntVal b row).toNat, ∀ j < (s.cntVal b row).toNat,
        entryX (s.slotVal b row i) = entryX (s.slotVal b row j) → i = j := by
  rw [State.rowEntries, List.map_map, List.nodup_map_iff_inj_on List.nodup_range]
  simp only [List.mem_range, Function.comp_apply]

theorem rowOk_of_empty {s : State} {b : BankId} {row : Nat} (h : s.cntVal b row = 0) :
    RowOk s b row := by
  simp [RowOk, State.rowEntries, h]

/-- A row stays good when its count and capacity stay, its entries stay written and keep their x. -/
theorem RowOk.congr {s t : State} {b : BankId} {row : Nat} (h : RowOk s b row)
    (hcnt : t.cntVal b row = s.cntVal b row) (hcap : t.capVal row = s.capVal row)
    (hwritten : ∀ k, (cellsGet? (s.mem.bank b).slot (slotKey row k)).isSome →
      (cellsGet? (t.mem.bank b).slot (slotKey row k)).isSome)
    (hx : ∀ k < (s.cntVal b row).toNat,
      entryX (t.slotVal b row k) = entryX (s.slotVal b row k)) : RowOk t b row := by
  obtain ⟨hle, hsome, hnodup⟩ := h
  rw [rowEntries_nodup_iff] at hnodup
  refine ⟨by rw [hcnt, hcap]; exact hle, fun k hk => hwritten k (hsome k (hcnt ▸ hk)), ?_⟩
  rw [rowEntries_nodup_iff, hcnt]
  intro i hi j hj hij
  rw [hx i hi, hx j hj] at hij
  exact hnodup i hi j hj hij

/-- Places of rows have different keys, up to 1024 places a row (00_scope.md R5). -/
theorem slotKey_eq_iff {r r' k k' : Nat} (hk : k < 1024) (hk' : k' < 1024) :
    slotKey r k = slotKey r' k' ↔ r = r' ∧ k = k' := by
  unfold slotKey; omega

theorem capMax_le (b : Build) : (b.capMax : Nat) ≤ 1024 := Nat.le_of_lt_succ b.capMax.isLt

/-- A count is at most the capacity, and so at most 1024. -/
theorem cntVal_le_capMax {s : State} (hinv : Inv s) (b : BankId) {row : Nat}
    (hrow : row < s.build.rowsMax) : (s.cntVal b row).toNat ≤ s.build.capMax :=
  (hinv.rows b row hrow).1.trans (capVal_le_capMax hinv row)

/-! ### Replacing a bank -/

theorem memInSpace_bank {b : Build} {m : Memory} (h : MemInSpace b m) (d : BankId) :
    (∀ c ∈ (m.bank d).cnt, c.1 < b.rowsMax) ∧ SlotInSpace b (m.bank d) := by
  obtain ⟨-, -, hcnt0, hcnt1, hslot0, hslot1⟩ := h
  cases d
  · exact ⟨hcnt0, hslot0⟩
  · exact ⟨hcnt1, hslot1⟩

theorem memInSpace_setBank {b : Build} {m : Memory} (h : MemInSpace b m) (d : BankId) {k : Bank}
    (hcnt : ∀ c ∈ k.cnt, c.1 < b.rowsMax) (hslot : SlotInSpace b k) :
    MemInSpace b (m.setBank d k) := by
  obtain ⟨hlut, hcap, hcnt0, hcnt1, hslot0, hslot1⟩ := h
  cases d
  · exact ⟨hlut, hcap, hcnt, hcnt1, hslot, hslot1⟩
  · exact ⟨hlut, hcap, hcnt0, hcnt, hslot0, hslot⟩

/-- In RUN mode a bank may be replaced by one that is well formed, in its space and has good rows. -/
theorem inv_setBank {s : State} (hinv : Inv s) (hrun : s.mode = .run) {b : BankId} {k : Bank}
    (hwf : k.wf) (hcnt : ∀ c ∈ k.cnt, c.1 < s.build.rowsMax) (hslot : SlotInSpace s.build k)
    (hrows : ∀ row < (s.build.rowsMax : Nat), RowOk (s.setMem (s.mem.setBank b k)) b row) :
    Inv (s.setMem (s.mem.setBank b k)) where
  build := hinv.build
  cfg := hinv.cfg
  status := hinv.status
  memWf := Memory.wf_setBank b hinv.memWf hwf
  memSpace := memInSpace_setBank hinv.memSpace b hcnt hslot
  rows d row hrow := by
    by_cases hd : d = b
    · exact hd ▸ hrows row hrow
    · have hbank : (s.mem.setBank b k).bank d = s.mem.bank d := Memory.bank_setBank_other _ k hd
      refine (hinv.rows d row hrow).congr ?_ ?_ (fun i hi => ?_) fun i _ => ?_
      · simp [State.cntVal, hbank]
      · simp [State.capVal]
      · simpa [hbank] using hi
      · simp [State.slotVal, hbank]
  cfgEmpty hcfg := absurd (hrun.symm.trans hcfg) (by decide)
  cfgIdle := hinv.cfgIdle
  lanes := hinv.lanes

/-! ### Counts and entries under the two writes of a Plot -/

section Writes

variable (s : State) (b : BankId) (row k : Nat)

@[simp] theorem cntVal_putSlot (d : BankId) (r : Nat) (v : Entry) :
    (s.setMem (s.mem.putSlot b row k v)).cntVal d r = s.cntVal d r := by
  by_cases hd : d = b
  · subst hd; simp [State.cntVal, Memory.putSlot]
  · simp [State.cntVal, Memory.putSlot, Memory.bank_setBank_other _ _ hd]

@[simp] theorem capVal_putSlot (r : Nat) (v : Entry) :
    (s.setMem (s.mem.putSlot b row k v)).capVal r = s.capVal r := by
  simp [State.capVal, Memory.putSlot]

@[simp] theorem cellsGet?_putSlot_same (v : Entry) :
    cellsGet? ((s.mem.putSlot b row k v).bank b).slot (slotKey row k) = some v := by
  simp [Memory.putSlot]

theorem cellsGet?_putSlot_other (v : Entry) {key : Nat} (hkey : key ≠ slotKey row k) :
    cellsGet? ((s.mem.putSlot b row k v).bank b).slot key = cellsGet? (s.mem.bank b).slot key := by
  simp [Memory.putSlot, cellsGet?_put_other _ _ hkey]

@[simp] theorem slotVal_putSlot_same (v : Entry) :
    (s.setMem (s.mem.putSlot b row k v)).slotVal b row k = v := by
  simp [State.slotVal]

theorem slotVal_putSlot_other (v : Entry) {r i : Nat} (hkey : slotKey r i ≠ slotKey row k) :
    (s.setMem (s.mem.putSlot b row k v)).slotVal b r i = s.slotVal b r i := by
  simp [State.slotVal, cellsGet?_putSlot_other _ _ _ _ _ hkey]

@[simp] theorem cntVal_putCnt_same (v : BitVec 11) :
    (s.setMem (s.mem.putCnt b row v)).cntVal b row = v := by
  simp [State.cntVal, Memory.putCnt]

theorem cntVal_putCnt_other (v : BitVec 11) {r : Nat} (hne : r ≠ row) :
    (s.setMem (s.mem.putCnt b row v)).cntVal b r = s.cntVal b r := by
  simp [State.cntVal, Memory.putCnt, cellsGetZ_putZ_other _ _ hne]

@[simp] theorem capVal_putCnt (r : Nat) (v : BitVec 11) :
    (s.setMem (s.mem.putCnt b row v)).capVal r = s.capVal r := by
  simp [State.capVal, Memory.putCnt]

@[simp] theorem slot_bank_putCnt (v : BitVec 11) :
    ((s.mem.putCnt b row v).bank b).slot = (s.mem.bank b).slot := by
  simp [Memory.putCnt]

@[simp] theorem slotVal_putCnt (r i : Nat) (v : BitVec 11) :
    (s.setMem (s.mem.putCnt b row v)).slotVal b r i = s.slotVal b r i := by
  simp [State.slotVal]

end Writes

/-- Writing one slot element keeps every row good, unless it changes the x of a valid entry. -/
theorem rowOk_putSlot {s : State} {b : BankId} {row k r : Nat} {v : Entry} (h : RowOk s b r)
    (hr1024 : (s.cntVal b r).toNat ≤ 1024) (hk : k < 1024)
    (hx : k < (s.cntVal b row).toNat → entryX v = entryX (s.slotVal b row k)) :
    RowOk (s.setMem (s.mem.putSlot b row k v)) b r := by
  refine h.congr (by simp) (by simp) (fun i hi => ?_) fun i hi => ?_
  · by_cases hkey : slotKey r i = slotKey row k
    · simp [hkey]
    · simpa [cellsGet?_putSlot_other _ _ _ _ _ hkey] using hi
  · by_cases hkey : slotKey r i = slotKey row k
    · obtain ⟨rfl, rfl⟩ := (slotKey_eq_iff (by omega) hk).mp hkey
      rw [slotVal_putSlot_same, hx hi]
    · rw [slotVal_putSlot_other _ _ _ _ _ hkey]

/-- Counting one more entry keeps the row good when there is room, the entry is written and its x is
new to the row. -/
theorem rowOk_putCnt_succ {s : State} {b : BankId} {row : Nat} (h : RowOk s b row)
    (hcap : (s.capVal row).toNat ≤ 1024) (hroom : (s.cntVal b row).toNat < (s.capVal row).toNat)
    (hwritten : (cellsGet? (s.mem.bank b).slot (slotKey row (s.cntVal b row).toNat)).isSome)
    (hnew : ∀ k < (s.cntVal b row).toNat,
      entryX (s.slotVal b row k) ≠ entryX (s.slotVal b row (s.cntVal b row).toNat)) :
    RowOk (s.setMem (s.mem.putCnt b row (s.cntVal b row + 1))) b row := by
  obtain ⟨-, hsome, hnodup⟩ := h
  rw [rowEntries_nodup_iff] at hnodup
  have hsucc : (s.cntVal b row + 1).toNat = (s.cntVal b row).toNat + 1 := by
    rw [BitVec.toNat_add]
    exact Nat.mod_eq_of_lt (by simp; omega)
  rw [RowOk, rowEntries_nodup_iff]
  simp only [cntVal_putCnt_same, hsucc, capVal_putCnt, State.setMem_mem, slot_bank_putCnt,
    slotVal_putCnt, Nat.lt_succ_iff_lt_or_eq]
  refine ⟨hroom, ?_, ?_⟩
  · rintro k (hk | rfl)
    · exact hsome k hk
    · exact hwritten
  · rintro i (hi | rfl) j (hj | rfl) hij
    · exact hnodup i hi j hj hij
    · exact absurd hij (hnew i hi)
    · exact absurd hij.symm (hnew j hj)
    · rfl

/-! ### Plot (42_slots.md R171) -/

theorem inv_putSlot {s : State} (hinv : Inv s) (hrun : s.mode = .run) {b : BankId} {row k : Nat}
    {v : Entry} (hrow : row < s.build.rowsMax) (hk : k < s.build.capMax)
    (hx : k < (s.cntVal b row).toNat → entryX v = entryX (s.slotVal b row k)) :
    Inv (s.setMem (s.mem.putSlot b row k v)) := by
  obtain ⟨hcntRising, hcntNonzero, hslotRising⟩ := Memory.wf_bank b hinv.memWf
  obtain ⟨hcntSpace, hslotSpace⟩ := memInSpace_bank hinv.memSpace b
  have hcapMax := capMax_le s.build
  have hk1024 : k < 1024 := hk.trans_le hcapMax
  refine inv_setBank hinv hrun ⟨hcntRising, hcntNonzero, cellsRising_put _ _ hslotRising⟩ hcntSpace
    (fun c hc => ?_) fun r hr =>
      rowOk_putSlot (hinv.rows b r hr) ((cntVal_le_capMax hinv b hr).trans hcapMax) hk1024 hx
  rcases mem_cellsPut hc with rfl | hc
  · simp only [slotKey]
    constructor <;> omega
  · exact hslotSpace c hc

theorem inv_putCnt_succ {s : State} (hinv : Inv s) (hrun : s.mode = .run) {b : BankId} {row : Nat}
    (hrow : row < s.build.rowsMax) (hroom : (s.cntVal b row).toNat < (s.capVal row).toNat)
    (hwritten : (cellsGet? (s.mem.bank b).slot (slotKey row (s.cntVal b row).toNat)).isSome)
    (hnew : ∀ k < (s.cntVal b row).toNat,
      entryX (s.slotVal b row k) ≠ entryX (s.slotVal b row (s.cntVal b row).toNat)) :
    Inv (s.setMem (s.mem.putCnt b row (s.cntVal b row + 1))) := by
  obtain ⟨hcntRising, hcntNonzero, hslotRising⟩ := Memory.wf_bank b hinv.memWf
  obtain ⟨hcntSpace, hslotSpace⟩ := memInSpace_bank hinv.memSpace b
  refine inv_setBank hinv hrun
    ⟨cellsRising_putZ _ _ hcntRising, cellsNonzero_putZ _ _ hcntNonzero, hslotRising⟩
    (fun c hc => ?_) hslotSpace fun r hr => ?_
  · rcases mem_cellsPutZ hc with rfl | hc
    · exact hrow
    · exact hcntSpace c hc
  · by_cases hne : r = row
    · subst hne
      exact rowOk_putCnt_succ (hinv.rows b r hr)
        ((capVal_le_capMax hinv r).trans (capMax_le _)) hroom hwritten hnew
    · exact (hinv.rows b r hr).congr (cntVal_putCnt_other _ _ _ _ hne) (capVal_putCnt _ _ _ _ _)
        (fun i hi => (slot_bank_putCnt s b row _).symm ▸ hi)
        fun i _ => congrArg entryX (slotVal_putCnt _ _ _ _ _ _)

/-- An overwrite is of a valid entry with the same x. -/
theorem plotActionAt_overwrite {s : State} {row k : Nat} {x : BitVec 10}
    (h : s.plotActionAt row x = .overwrite k) :
    k < (s.cntVal s.writeBank row).toNat ∧ entryX (s.slotVal s.writeBank row k) = x := by
  unfold State.plotActionAt plotAction at h
  split at h
  · cases h
  · split at h
    next k' hfind =>
      cases h
      obtain ⟨hlt, hget, -⟩ := List.findIdx?_eq_some_iff_getElem.mp hfind
      simp only [State.rowEntries, List.length_map, List.length_range] at hlt
      exact ⟨hlt, by simpa [State.rowEntries] using hget⟩
    next => cases h

/-- An append is at the index of the count, in a row that is not full and where x is new. -/
theorem plotActionAt_append {s : State} {row k : Nat} {x : BitVec 10}
    (h : s.plotActionAt row x = .append k) :
    k = (s.cntVal s.writeBank row).toNat ∧
      (s.cntVal s.writeBank row).toNat < (s.capVal row).toNat ∧
      ∀ j < (s.cntVal s.writeBank row).toNat, entryX (s.slotVal s.writeBank row j) ≠ x := by
  unfold State.plotActionAt plotAction at h
  split at h
  · cases h
  next hroom =>
    split at h
    next => cases h
    next hfind =>
      cases h
      refine ⟨rfl, by omega, fun j hj => ?_⟩
      simpa using List.findIdx?_eq_none_iff.mp hfind _
        (List.mem_map_of_mem (List.mem_range.mpr hj))

/-- A Plot keeps the invariant (10_state.md R49): an overwrite keeps the x, and an append is a write
beyond the count followed by the count. -/
theorem inv_plot {s t : State} (hinv : Inv s) (hrun : s.mode = .run) {row : Nat} {x : BitVec 10}
    {c : Colour} (h : s.plot row x c = .ok t) : Inv t := by
  obtain ⟨hrow, ⟨-, rfl⟩ | ⟨k, hact, hk, rfl⟩ | ⟨k, hact, hk, rfl⟩⟩ := plot_cases h
  · exact hinv
  · obtain ⟨-, hx⟩ := plotActionAt_overwrite hact
    exact inv_putSlot hinv hrun hrow hk fun _ => by rw [entryX_packEntry, hx]
  · obtain ⟨rfl, hroom, hnew⟩ := plotActionAt_append hact
    have hput := inv_putSlot (b := s.writeBank) (v := packEntry x c) hinv hrun hrow hk
      fun hlt => absurd hlt (lt_irrefl _)
    have hcount := inv_putCnt_succ (b := s.writeBank) hput hrun hrow (by simpa using hroom) (by simp)
      fun j hj => by
        have hj : j < (s.cntVal s.writeBank row).toNat := by simpa using hj
        have hkey : slotKey row j ≠ slotKey row (s.cntVal s.writeBank row).toNat := by
          unfold slotKey; omega
        rw [cntVal_putSlot, slotVal_putSlot_other _ _ _ _ _ hkey, slotVal_putSlot_same,
          entryX_packEntry]
        exact hnew j hj
    rwa [cntVal_putSlot] at hcount

/-! ### CLEAR (42_slots.md R173) -/

/-- Clearing a bank's counts empties every row of it. -/
theorem inv_clearCounts {s : State} (hinv : Inv s) (hrun : s.mode = .run) (b : BankId) :
    Inv (s.setMem (s.mem.clearCounts b s.build.rowsMax)) := by
  obtain ⟨hcntRising, hcntNonzero, hslotRising⟩ := Memory.wf_bank b hinv.memWf
  obtain ⟨hcntSpace, hslotSpace⟩ := memInSpace_bank hinv.memSpace b
  refine inv_setBank hinv hrun ⟨cellsRising_filter _ hcntRising,
    fun c hc => hcntNonzero c (List.mem_filter.mp hc).1, hslotRising⟩
    (fun c hc => hcntSpace c (List.mem_filter.mp hc).1) hslotSpace
    fun row hrow => rowOk_of_empty ?_
  simp [State.cntVal, cellsGetZ_dropBelow, hrow]

end Sys2Proof.Machine
end

section
/-! Every step keeps the invariant (10_state.md R21, R31, R40, R41, R49). -/

namespace Sys2Proof.Machine

/-! ### Configuration registers (10_state.md R21; 40_config.md R122) -/

/-- A legal value fits its register, so the register holds it. -/
theorem cfgLegal_write {b : Build} {c : CfgRegs} {reg : BitVec 4} {value : BitVec 32}
    (hc : CfgLegal b c) (hvalue : legalCfg b reg value = true) : CfgLegal b (c.write reg value) := by
  obtain ⟨hlog2n, hpixel, hcurves, hiter, hshift⟩ := hc
  have hlog2nMax := b.log2nMax.isLt
  have hrowsMax := b.rowsMax.isLt
  unfold legalCfg at hvalue
  unfold CfgRegs.write
  generalize reg.toNat = n at *
  match n with
  | 0 =>
    have hlegal : 2 ≤ value.toNat ∧ value.toNat ≤ b.log2nMax := of_decide_eq_true hvalue
    refine ⟨?_, hpixel, hcurves, hiter, hshift⟩
    simp only [BitVec.toNat_setWidth]; omega
  | 1 =>
    have hlegal : 1 ≤ value.toNat ∧ value.toNat ≤ b.rowsMax := of_decide_eq_true hvalue
    refine ⟨hlog2n, ?_, hcurves, hiter, hshift⟩
    simp only [BitVec.toNat_setWidth]; omega
  | 2 =>
    have hlegal : value.toNat ≤ 65528 ∧ value.toNat % 8 = 0 := of_decide_eq_true hvalue
    refine ⟨hlog2n, hpixel, ?_, hiter, hshift⟩
    simp only [BitVec.toNat_setWidth, Config.curveCountMax]; omega
  | 3 =>
    have hlegal : value.toNat ≤ 512 := of_decide_eq_true hvalue
    refine ⟨hlog2n, hpixel, hcurves, ?_, hshift⟩
    simp only [BitVec.toNat_setWidth, Config.iterMax]; omega
  | 4 =>
    have hlegal : value.toNat ≤ 14 := of_decide_eq_true hvalue
    refine ⟨hlog2n, hpixel, hcurves, hiter, ?_⟩
    simp only [BitVec.toNat_setWidth]; omega
  | 5 | 6 | 7 | 8 | 9 | 10 | 11 => exact ⟨hlog2n, hpixel, hcurves, hiter, hshift⟩
  | _ + 12 => exact ⟨hlog2n, hpixel, hcurves, hiter, hshift⟩

/-- Both ends of a half are at a whole curve, and fit the register `i` (10_state.md R30, R40). -/
theorem halves_of_cfgLegal {b : Build} {c : CfgRegs} (hc : CfgLegal b c) (h : LaneId) :
    c.halfLo h % 4 = 0 ∧ c.halfHi h % 4 = 0 ∧ c.halfLo h ≤ c.halfHi h ∧ c.halfHi h ≤ 65528 := by
  obtain ⟨-, -, ⟨hmax, hmod⟩, -⟩ := hc
  simp only [Config.curveCountMax] at hmax
  cases h <;> simp only [CfgRegs.halfLo, CfgRegs.halfHi, laneNumber] <;> omega

/-! ### Lanes (10_state.md R40, R41) -/

theorem LaneOk.congr {s t : State} {h : LaneId} (hok : LaneOk s h) (hlane : t.lane h = s.lane h)
    (hcfg : t.cfg = s.cfg) : LaneOk t h := by
  unfold LaneOk at *
  rwa [hlane, hcfg]

/-- GEN starts a lane at the first curve of its half, if it has one (41_mapper.md R141). -/
theorem laneOk_of_start {b : Build} {s : State} {h : LaneId} {time : F32} (hc : CfgLegal b s.cfg)
    (hcurve : s.cfg.halfLo h < s.cfg.halfHi h) (hlane : s.lane h = s.cfg.laneStart h time) :
    LaneOk s h := by
  obtain ⟨hlo, hhi, -, hmax⟩ := halves_of_cfgLegal hc h
  have hi : (BitVec.ofNat 16 (s.cfg.halfLo h)).toNat = s.cfg.halfLo h := by
    rw [BitVec.toNat_ofNat]; omega
  rw [LaneOk, hlane]
  simp only [CfgRegs.laneStart, hi]
  exact ⟨hlo, le_refl _, by omega, Nat.zero_le _⟩

/-- An iteration below ITER_COUNT counts one up (41_mapper.md R143). -/
theorem laneOk_of_iterated {b : Build} {s t : State} {h : LaneId} {p : Sample}
    (hc : CfgLegal b s.cfg) (hok : LaneOk s h)
    (hj : (s.lane h).j.toNat < s.cfg.iterCount.toNat) (hcfg : t.cfg = s.cfg)
    (hlane : t.lane h = (s.lane h).iterated p) : LaneOk t h := by
  obtain ⟨-, -, -, hiter, -⟩ := hc
  obtain ⟨hmod, hlo, hhi, -⟩ := hok
  simp only [Config.iterMax] at hiter
  have hsucc : ((s.lane h).j + 1).toNat = (s.lane h).j.toNat + 1 := by
    rw [BitVec.toNat_add]
    exact Nat.mod_eq_of_lt (by simp; omega)
  rw [LaneOk, hlane, hcfg]
  exact ⟨hmod, hlo, hhi, hsucc.trans_le hj⟩

/-- After a curve that is not the last one, a whole curve is left (41_mapper.md R148). -/
theorem laneOk_of_nextCurve {b : Build} {s t : State} {h : LaneId} (hc : CfgLegal b s.cfg)
    (hok : LaneOk s h) (hlast : s.cfg.lastCurve h (s.lane h) = false) (hcfg : t.cfg = s.cfg)
    (hlane : t.lane h = s.cfg.nextCurve (s.lane h)) : LaneOk t h := by
  obtain ⟨-, hhi4, -, hmax⟩ := halves_of_cfgLegal hc h
  obtain ⟨hmod, hlo, hhi, -⟩ := hok
  have hmore : ¬ s.cfg.halfHi h ≤ (s.lane h).i.toNat + 4 := of_decide_eq_false hlast
  have hi : ((s.lane h).i + BitVec.ofNat 16 Config.curveStep).toNat = (s.lane h).i.toNat + 4 := by
    simp only [BitVec.toNat_add, BitVec.toNat_ofNat, Config.curveStep]
    omega
  rw [LaneOk, hlane, hcfg]
  simp only [CfgRegs.nextCurve, hi]
  exact ⟨by omega, by omega, by omega, Nat.zero_le _⟩

/-! ### Updates that keep the invariant -/

theorem anyBusy_eq_false_iff (s : State) : s.anyBusy = false ↔ ∀ h, s.busy h = false := by
  refine ⟨fun hs h => ?_, fun hs => by rw [State.anyBusy, hs, hs]; rfl⟩
  obtain ⟨h0, h1⟩ := Bool.or_eq_false_iff.mp hs
  cases h
  · exact h0
  · exact h1

/-- In CFG mode no lane runs (20_memory.md R71). -/
theorem mode_eq_run_of_busy {s : State} (hinv : Inv s) {h : LaneId} (hbusy : s.busy h = true) :
    s.mode = .run := by
  cases hmode : s.mode with
  | run => rfl
  | cfg =>
    rw [(anyBusy_eq_false_iff s).mp (hinv.cfgIdle hmode) h] at hbusy
    cases hbusy

/-- In CFG mode every row is empty, whatever its capacity (40_config.md R124). -/
theorem cntVal_of_cfgMode {s : State} (hinv : Inv s) (hcfg : s.mode = .cfg) (b : BankId) (row : Nat) :
    s.cntVal b row = 0 := by
  obtain ⟨h0, h1⟩ := hinv.cfgEmpty hcfg
  cases b
  · simp [State.cntVal, Memory.bank, h0]
  · simp [State.cntVal, Memory.bank, h1]

/-- The invariant does not speak of the ports and the response streams. -/
theorem inv_io {s : State} (hinv : Inv s) (rH : List (BitVec 32)) (rS : List (BitVec 16))
    (pH pS : Port) : Inv { s with respH := rH, respS := rS, portH := pH, portS := pS } :=
  ⟨hinv.build, hinv.cfg, hinv.status, hinv.memWf, hinv.memSpace, hinv.rows, hinv.cfgEmpty,
    hinv.cfgIdle, hinv.lanes⟩

theorem inv_accept {s : State} (hinv : Inv s) (p : PortId) : Inv (s.accept p) := by
  cases p
  · exact inv_io hinv _ _ _ _
  · exact inv_io hinv _ _ _ _

/-- A named flag may be written if that neither returns to CFG mode nor makes a lane run, but in RUN
mode one whose registers are in its half. -/
theorem inv_setFlag {s : State} (hinv : Inv s) {n : Nat} {b : Bool}
    (hnamed : namedBits.getLsbD n = true) (hmode : (s.setFlag n b).mode = .cfg → s.mode = .cfg)
    (hbusy : ∀ h, (s.setFlag n b).busy h = true →
      s.busy h = true ∨ (s.mode = .run ∧ LaneOk s h)) : Inv (s.setFlag n b) where
  build := hinv.build
  cfg := hinv.cfg
  status := putBit_reserved b hnamed hinv.status
  memWf := hinv.memWf
  memSpace := hinv.memSpace
  rows := hinv.rows
  cfgEmpty hcfg := hinv.cfgEmpty (hmode hcfg)
  cfgIdle hcfg := by
    have hidle := (anyBusy_eq_false_iff s).mp (hinv.cfgIdle (hmode hcfg))
    refine (anyBusy_eq_false_iff _).mpr fun h => Bool.eq_false_iff.mpr fun hset => ?_
    obtain hold | ⟨hrun, -⟩ := hbusy h hset
    · rw [hidle h] at hold; cases hold
    · rw [hmode hcfg] at hrun; cases hrun
  lanes h hset := by
    have hok : LaneOk s h := (hbusy h hset).elim (hinv.lanes h) And.right
    exact hok.congr (State.lane_congr rfl rfl h) rfl

/-- A flag that is neither MODE nor a BUSY bit may take any value. -/
theorem inv_setFlag_latch {s : State} (hinv : Inv s) {n : Nat} (b : Bool)
    (hnamed : namedBits.getLsbD n = true) (hmode : n ≠ modeBit) (hbusy : ∀ h, n ≠ busyBit h) :
    Inv (s.setFlag n b) := by
  refine inv_setFlag hinv hnamed (fun hcfg => ?_) fun h hset => ?_
  · simpa only [State.mode, State.flag_setFlag_other s b hmode.symm] using hcfg
  · exact .inl (by simpa only [State.busy, State.flag_setFlag_other s b (hbusy h).symm] using hset)

theorem inv_raise {s : State} (hinv : Inv s) (c : Cause) : Inv (s.raise c) := by
  refine inv_setFlag_latch hinv true ?_ ?_ fun h => ?_
  · cases c <;> decide
  · cases c <;> decide
  · cases c <;> cases h <;> decide

/-- A running lane's registers may be replaced by ones in its half, an idle lane's by any. -/
theorem inv_setLane {s : State} (hinv : Inv s) {g : LaneId} {r : LaneRegs}
    (hok : s.busy g = true → LaneOk (s.setLane g r) g) : Inv (s.setLane g r) where
  build := by simpa using hinv.build
  cfg := by simpa using hinv.cfg
  status := by simpa using hinv.status
  memWf := by simpa using hinv.memWf
  memSpace := by simpa using hinv.memSpace
  rows := by cases g <;> exact hinv.rows
  cfgEmpty := by simpa using hinv.cfgEmpty
  cfgIdle := by simpa [State.anyBusy] using hinv.cfgIdle
  lanes h hbusy := by
    rw [State.busy_setLane] at hbusy
    by_cases hg : h = g
    · subst hg; exact hok hbusy
    · exact (hinv.lanes h hbusy).congr (State.lane_setLane_other s r hg) (by simp)

/-! ### Reset (10_state.md R53; 70_reset_and_hazards.md R240) -/

/-- Every state with the reset values of what the invariant speaks of meets it. -/
theorem inv_of_resetValues {s : State}
    (hbuild : 1 ≤ (s.build.rowsMax : Nat) ∧ 2 ≤ (s.build.log2nMax : Nat))
    (hcfg : s.cfg = CfgRegs.reset) (hstatus : s.status = 0) (hmem : s.mem = Memory.reset) :
    Inv s where
  build := hbuild
  cfg := by
    rw [hcfg]
    exact ⟨⟨by decide, hbuild.2⟩, ⟨by decide, hbuild.1⟩, by decide, by decide, by decide⟩
  status := by simp [hstatus]
  memWf := hmem ▸ Memory.wf_reset
  memSpace := by rw [hmem]; simp [MemInSpace, SlotInSpace, Memory.reset, Bank.empty]
  rows b row _ := rowOk_of_empty (by rw [State.cntVal, hmem]; cases b <;> rfl)
  cfgEmpty _ := by rw [hmem]; exact ⟨rfl, rfl⟩
  cfgIdle _ := (anyBusy_eq_false_iff s).mpr fun h => by simp [State.busy, State.flag, hstatus]
  lanes h hbusy := by simp [State.busy, State.flag, hstatus] at hbusy

theorem inv_applyReset {s : State} (hinv : Inv s) : Inv s.applyReset :=
  inv_of_resetValues hinv.build rfl rfl rfl

/-! ### Commands -/

theorem inv_configured {s : State} (hinv : Inv s) (hcfg : s.mode = .cfg) {reg : BitVec 4}
    {value : BitVec 32} (hvalue : legalCfg s.build reg value = true) :
    Inv { s with cfg := s.cfg.write reg value } where
  build := hinv.build
  cfg := cfgLegal_write hinv.cfg hvalue
  status := hinv.status
  memWf := hinv.memWf
  memSpace := hinv.memSpace
  rows := hinv.rows
  cfgEmpty := hinv.cfgEmpty
  cfgIdle := hinv.cfgIdle
  lanes h hbusy := absurd (hcfg.symm.trans (mode_eq_run_of_busy hinv hbusy)) (by decide)

theorem inv_tableLoaded {s : State} (hinv : Inv s) {k : Nat} (v : F32) (hk : k < s.build.lutDepth) :
    Inv (s.setMem { s.mem with lut := cellsPut s.mem.lut k v }) where
  build := hinv.build
  cfg := hinv.cfg
  status := hinv.status
  memWf := Memory.wf_putLut k v hinv.memWf
  memSpace := by
    obtain ⟨hlut, hrest⟩ := hinv.memSpace
    refine ⟨fun c hc => ?_, hrest⟩
    rcases mem_cellsPut hc with rfl | hc
    · exact hk
    · exact hlut c hc
  rows := hinv.rows
  cfgEmpty := hinv.cfgEmpty
  cfgIdle := hinv.cfgIdle
  lanes := hinv.lanes

/-- A capacity may go below any count because in CFG mode the counts are 0 (40_config.md R124). -/
theorem inv_capacitySet {s : State} (hinv : Inv s) (hcfg : s.mode = .cfg) {row : Nat}
    {cap : BitVec 11} (hrow : row < s.build.rowsMax) (hcap : cap.toNat ≤ s.build.capMax) :
    Inv (s.setMem { s.mem with cap := cellsPutZ s.mem.cap row cap }) where
  build := hinv.build
  cfg := hinv.cfg
  status := hinv.status
  memWf := Memory.wf_putCap row cap hinv.memWf
  memSpace := by
    obtain ⟨hlut, hcaps, hrest⟩ := hinv.memSpace
    refine ⟨hlut, fun c hc => ?_, hrest⟩
    rcases mem_cellsPutZ hc with rfl | hc
    · exact ⟨hrow, hcap⟩
    · exact hcaps c hc
  rows b r _ := rowOk_of_empty (cntVal_of_cfgMode hinv hcfg b r)
  cfgEmpty := hinv.cfgEmpty
  cfgIdle := hinv.cfgIdle
  lanes := hinv.lanes

theorem inv_locked {s : State} (hinv : Inv s) : Inv (s.setFlag modeBit true) := by
  refine inv_setFlag hinv (by decide) (fun hcfg => ?_) fun h hset => .inl ?_
  · simp [State.mode, modeBit] at hcfg
  · rwa [State.busy, State.flag_setFlag_other s true (by cases h <;> decide)] at hset

/-- GEN writes an idle lane's registers and then lets it run, if its half has a curve. -/
theorem inv_started {s : State} (hinv : Inv s) (hrun : s.mode = .run) {g : LaneId} (time : F32)
    (hidle : s.busy g = false) :
    Inv ((s.setLane g (s.cfg.laneStart g time)).setFlag (busyBit g)
      (decide (s.cfg.halfLo g < s.cfg.halfHi g))) := by
  have hwritten : Inv (s.setLane g (s.cfg.laneStart g time)) :=
    inv_setLane hinv fun hbusy => absurd hbusy (by simp [hidle])
  refine inv_setFlag hwritten (by cases g <;> decide) (fun hcfg => ?_) fun h hset => ?_
  · rwa [State.mode, State.flag_setFlag_other _ _ (by cases g <;> decide)] at hcfg
  · by_cases hg : h = g
    · subst hg
      rw [State.busy, State.flag_setFlag_same _ _ (by cases h <;> decide), decide_eq_true_eq] at hset
      exact .inr ⟨by simpa using hrun,
        laneOk_of_start hwritten.cfg (by simpa using hset) (time := time) (by simp)⟩
    · rw [State.busy, State.flag_setFlag_other _ _ fun hbit => hg (busyBit_injective hbit)] at hset
      exact .inl hset

theorem inv_effect {s t : State} (hinv : Inv s) (h : Effect s t) : Inv t := by
  cases h with
  | nothing => exact hinv
  | raised c => exact inv_raise hinv c
  | configured reg value hcfg hvalue => exact inv_configured hinv hcfg hvalue
  | tableLoaded k v _ hk => exact inv_tableLoaded hinv v hk
  | capacitySet row cap hcfg hrow hcap => exact inv_capacitySet hinv hcfg hrow hcap
  | locked => exact inv_locked hinv
  | respondedH ws => exact inv_io hinv _ _ _ _
  | cleared hrun => exact inv_clearCounts hinv hrun s.writeBank
  | plotted hrun hplot => exact inv_plot hinv hrun hplot
  | started g time hrun hidle => exact inv_started hinv hrun time hidle
  | swapped =>
    have hlatch : ∀ h, wbBit ≠ busyBit h ∧ vspBit ≠ busyBit h := fun h => by cases h <;> decide
    exact inv_setFlag_latch
      (inv_setFlag_latch hinv _ (by decide) (by decide) fun h => (hlatch h).1)
      false (by decide) (by decide) fun h => (hlatch h).2
  | respondedS ws => exact inv_io hinv _ _ _ _
  | refusedRow => exact inv_raise (inv_io hinv _ _ _ _) .range
  | notified =>
    exact inv_setFlag_latch hinv true (by decide) (by decide) fun h => by cases h <;> decide

theorem inv_portStep {p : PortId} {s t : State} (hinv : Inv s) (h : portStep p s = .next t) :
    Inv t := by
  obtain rfl | ⟨u, hu, rfl⟩ := portStep_effect h
  · exact hinv
  · exact inv_accept (inv_effect hinv hu) p

/-! ### Lane steps -/

theorem inv_raiseNumIf {s : State} (hinv : Inv s) (ovf : Bool) : Inv (s.raiseNumIf ovf) := by
  cases ovf
  · exact hinv
  · exact inv_raise hinv .num

@[simp] theorem State.mode_raiseNumIf (s : State) (ovf : Bool) :
    (s.raiseNumIf ovf).mode = s.mode := by
  cases ovf
  · rfl
  · exact State.mode_raise s .num

theorem inv_emit {s t : State} (hinv : Inv s) (hrun : s.mode = .run) {p : Sample}
    (h : s.emit p = .ok t) : Inv t := by
  obtain ⟨-, hplot⟩ | ⟨-, rfl⟩ := emit_cases h
  · exact inv_plot hinv hrun hplot
  · exact inv_raise hinv .range

theorem inv_iterationStep {h : LaneId} {s t : State} (hinv : Inv s) (hbusy : s.busy h = true)
    (hj : (s.lane h).j.toNat < s.cfg.iterCount.toNat) (ht : iterationStep h s = .next t) :
    Inv t := by
  obtain ⟨p, -, hemit⟩ := iterationStep_cases ht
  generalize (s.cfg.indices (s.lane h)).2.2 = ovf at hemit
  obtain ⟨-, hcfg, -⟩ := raiseNumIf_frame s ovf
  have hwritten : Inv ((s.raiseNumIf ovf).setLane h ((s.lane h).iterated p)) :=
    inv_setLane (inv_raiseNumIf hinv ovf) fun _ =>
      laneOk_of_iterated (p := p) hinv.cfg (hinv.lanes h hbusy) hj (by simp [hcfg]) (by simp)
  refine inv_emit hwritten ?_ hemit
  rw [State.mode_setLane, State.mode_raiseNumIf, mode_eq_run_of_busy hinv hbusy]

/-- The last curve's end lets the lane rest, and an idle lane's registers are free. -/
theorem inv_endOfCurveStep {h : LaneId} {s t : State} (hinv : Inv s) (hbusy : s.busy h = true)
    (ht : endOfCurveStep h s = .next t) : Inv t := by
  obtain ⟨-, rfl⟩ | ⟨hlast, rfl⟩ := endOfCurveStep_cases ht
  · have hbit : busyBit h < 32 := by cases h <;> decide
    have hrested : Inv (s.setFlag (busyBit h) false) := by
      refine inv_setFlag hinv (by cases h <;> decide) (fun hcfg => ?_) fun g hset => .inl ?_
      · rwa [State.mode, State.flag_setFlag_other _ _ (by cases h <;> decide)] at hcfg
      · rw [State.busy, State.flag_setFlag] at hset
        split at hset
        · simp at hset
        · exact hset
    have hswap (r : LaneRegs) : (s.setLane h r).setFlag (busyBit h) false =
        (s.setFlag (busyBit h) false).setLane h r := by cases h <;> rfl
    rw [hswap]
    exact inv_setLane hrested fun hset => absurd hset (by simp [State.busy, hbit])
  · exact inv_setLane hinv fun _ =>
      laneOk_of_nextCurve hinv.cfg (hinv.lanes h hbusy) hlast (by simp) (by simp)

theorem inv_laneStep {h : LaneId} {s t : State} (hinv : Inv s) (ht : laneStep h s = .next t) :
    Inv t := by
  obtain ⟨-, rfl⟩ | ⟨hbusy, hj, hiter⟩ | ⟨hbusy, -, hend⟩ := laneStep_cases ht
  · exact hinv
  · exact inv_iterationStep hinv hbusy hj hiter
  · exact inv_endOfCurveStep hinv hbusy hend

/-! ### The statements -/

theorem inv_runTurn {a : Turn} {s t : State} (hinv : Inv s) (h : runTurn a s = .next t) : Inv t := by
  cases a with
  | host => exact inv_portStep hinv h
  | sink => exact inv_portStep hinv h
  | lane l => exact inv_laneStep hinv h
  | resetPin => cases h; exact inv_applyReset hinv

/-- Settles O46: the default build has a row and a table, and every other value is the reset's. -/
theorem invariantHoldsAtReset : Obligations.InvariantHoldsAtReset :=
  inv_of_resetValues (by decide) rfl rfl rfl

/-- Settles O47, agent by agent: each command's effect, each lane step and the reset pin keep the
invariant. -/
theorem everyStepKeepsTheInvariant : Obligations.EveryStepKeepsTheInvariant :=
  fun _ _ hinv h => inv_runTurn (inv_passTurn hinv) h

end Sys2Proof.Machine
end

section
/-! A Plot as optional writes to the count and the slot elements of one row (42_slots.md R171), so that
Plots to different rows commute as writes to different places do. -/

namespace Sys2Proof.Machine

/-! ### Optional writes -/

/-- Lists an element, if there is one to write. -/
def cellsPut? {n : Nat} (m : Cells n) : Option (Nat × BitVec n) → Cells n
  | none => m
  | some (k, v) => cellsPut m k v

theorem cellsPut?_comm {n : Nat} (m : Cells n) {c d : Option (Nat × BitVec n)}
    (hne : ∀ a ∈ c, ∀ b ∈ d, a.1 ≠ b.1) :
    cellsPut? (cellsPut? m c) d = cellsPut? (cellsPut? m d) c := by
  match c, d with
  | none, _ => rfl
  | some _, none => rfl
  | some a, some b => exact cellsPut_comm a.2 b.2 (hne a rfl b rfl)

theorem cellsGet?_put?_other {n : Nat} (m : Cells n) {c : Option (Nat × BitVec n)} {l : Nat}
    (hne : ∀ a ∈ c, l ≠ a.1) : cellsGet? (cellsPut? m c) l = cellsGet? m l := by
  match c with
  | none => rfl
  | some a => exact cellsGet?_put_other m a.2 (hne a rfl)

/-! ### The writes of a Plot -/

/-- The slot element that an action writes in row `row`. -/
def PlotAction.slotWrite (row : Nat) (e : Entry) : PlotAction → Option (Nat × Entry)
  | .drop => none
  | .overwrite k => some (slotKey row k, e)
  | .append k => some (slotKey row k, e)

/-- The count that an action writes for row `row`. -/
def PlotAction.cntWrite (row : Nat) : PlotAction → Option (Nat × BitVec 11)
  | .drop => none
  | .overwrite _ => none
  | .append k => some (row, BitVec.ofNat 11 (k + 1))

/-- A bank after an action on row `row` with entry `e`. -/
def Bank.plotted (b : Bank) (row : Nat) (e : Entry) (a : PlotAction) : Bank :=
  { cnt := cellsPut? b.cnt (a.cntWrite row), slot := cellsPut? b.slot (a.slotWrite row e) }

@[simp] theorem Bank.plotted_drop (b : Bank) (row : Nat) (e : Entry) : b.plotted row e .drop = b := rfl

@[simp] theorem Memory.setBank_bank (m : Memory) (b : BankId) : m.setBank b (m.bank b) = m := by
  cases b <;> rfl

@[simp] theorem Memory.setBank_setBank (m : Memory) (b : BankId) (k l : Bank) :
    (m.setBank b k).setBank b l = m.setBank b l := by cases b <;> rfl

/-- A Plot replaces the write bank by the bank after its action, and nothing else. -/
theorem plot_eq_plotted {s t : State} {row : Nat} {x : BitVec 10} {c : Colour}
    (h : s.plot row x c = .ok t) :
    t = s.setMem (s.mem.setBank s.writeBank
      ((s.mem.bank s.writeBank).plotted row (packEntry x c) (s.plotActionAt row x))) := by
  obtain ⟨-, ⟨hact, rfl⟩ | ⟨k, hact, -, rfl⟩ | ⟨k, hact, hk, rfl⟩⟩ := plot_cases h
  · rw [hact, Bank.plotted_drop, Memory.setBank_bank]; rfl
  · rw [hact]; rfl
  · rw [hact]
    obtain ⟨rfl, -, -⟩ := plotActionAt_append hact
    have hsucc : s.cntVal s.writeBank row + 1 =
        BitVec.ofNat 11 ((s.cntVal s.writeBank row).toNat + 1) := by
      rw [BitVec.ofNat_add, BitVec.ofNat_toNat, BitVec.setWidth_eq]; rfl
    have hne : BitVec.ofNat 11 ((s.cntVal s.writeBank row).toNat + 1) ≠ 0 := fun hzero => by
      have hmax := capMax_le s.build
      have hmod : ((s.cntVal s.writeBank row).toNat + 1) % 2 ^ 11 = 0 :=
        congrArg BitVec.toNat hzero
      omega
    simp only [Memory.putSlot, Memory.putCnt, Bank.plotted, PlotAction.cntWrite,
      PlotAction.slotWrite, cellsPut?, Memory.bank_setBank_same, Memory.setBank_setBank, hsucc,
      cellsPutZ, if_neg hne]

/-- What a Plot does depends on its row only: the count and the entries in the write bank, and the
capacity. -/
theorem plotActionAt_congr {s t : State} {row : Nat} (hbank : t.writeBank = s.writeBank)
    (hcap : t.capVal row = s.capVal row)
    (hcnt : t.cntVal s.writeBank row = s.cntVal s.writeBank row)
    (hslot : ∀ k < (s.cntVal s.writeBank row).toNat,
      t.slotVal s.writeBank row k = s.slotVal s.writeBank row k) (x : BitVec 10) :
    t.plotActionAt row x = s.plotActionAt row x := by
  have hentries : t.rowEntries s.writeBank row = s.rowEntries s.writeBank row := by
    rw [State.rowEntries, State.rowEntries, hcnt]
    exact List.map_congr_left fun k hk => hslot k (List.mem_range.mp hk)
  rw [State.plotActionAt, State.plotActionAt, hbank, hcap, hcnt, hentries]

theorem row_of_mem_cntWrite {a : PlotAction} {row : Nat} {c : Nat × BitVec 11}
    (hc : c ∈ a.cntWrite row) : c.1 = row := by
  cases a <;> cases hc
  rfl

/-- Under `Inv` a Plot writes a slot element of its own row: its place is below CAP_MAX. -/
theorem row_of_mem_slotWrite {s : State} (hinv : Inv s) {row : Nat} (hrow : row < s.build.rowsMax)
    {x : BitVec 10} {e : Entry} {c : Nat × Entry}
    (hc : c ∈ (s.plotActionAt row x).slotWrite row e) : c.1 / 1024 = row := by
  have hcnt := cntVal_le_capMax hinv s.writeBank hrow
  have hcap := capVal_le_capMax hinv row
  have hmax := capMax_le s.build
  cases hact : s.plotActionAt row x with
  | drop => rw [hact] at hc; cases hc
  | overwrite k =>
    rw [hact] at hc; cases hc
    obtain ⟨hk, -⟩ := plotActionAt_overwrite hact
    simp only [slotKey]; omega
  | append k =>
    rw [hact] at hc; cases hc
    obtain ⟨rfl, hroom, -⟩ := plotActionAt_append hact
    simp only [slotKey]; omega

end Sys2Proof.Machine
end

section
/-! The order of lane steps (20_memory.md R69, R72): an iteration step is a function of its sample,
and the steps of two lanes commute unless both plot to one row. -/

namespace Sys2Proof.Machine

/-! ### An iteration step as a function of its sample -/

/-- The row that a sample falls in (41_mapper.md R147). -/
def Sample.row (p : Sample) : Nat := ftruncU p.y

/-- The column that a sample falls in (41_mapper.md R147). -/
def Sample.column (p : Sample) : BitVec 10 := BitVec.ofNat 10 (ftruncU p.x)

/-- What plotting a sample does to its row: nothing when it is outside the grid. -/
def State.sampleAction (s : State) (p : Sample) : PlotAction :=
  if s.cfg.inGrid p then s.plotActionAt p.row p.column else .drop

/-- The memories after a sample is plotted. -/
def State.sampleMem (s : State) (p : Sample) : Memory :=
  s.mem.setBank s.writeBank
    ((s.mem.bank s.writeBank).plotted p.row (packEntry p.column p.c) (s.sampleAction p))

/-- The STATUS bit of NUM, if a conversion overflowed (41_mapper.md R143). -/
def numBits (ovf : Bool) : BitVec 32 := if ovf then BitVec.twoPow 32 Cause.num.bit else 0

/-- The STATUS bit of RANGE, unless the sample is in the grid (41_mapper.md R147). -/
def rangeBits (inGrid : Bool) : BitVec 32 := if inGrid then 0 else BitVec.twoPow 32 Cause.range.bit

/-- The STATUS bits that an iteration with registers `r` and sample `p` raises. -/
def CfgRegs.sampleErrors (c : CfgRegs) (r : LaneRegs) (p : Sample) : BitVec 32 :=
  numBits (c.indices r).2.2 ||| rangeBits (c.inGrid p)

/-- Several bits of STATUS set at once. -/
def State.raiseBits (s : State) (bits : BitVec 32) : State := { s with status := s.status ||| bits }

/-- The state after an iteration step of lane `h` with sample `p`. -/
def State.sampled (s : State) (h : LaneId) (p : Sample) : State :=
  ((s.raiseBits (s.cfg.sampleErrors (s.lane h) p)).setMem (s.sampleMem p)).setLane h
    ((s.lane h).iterated p)

section Updates

variable (s : State) (h : LaneId) (r : LaneRegs) (m n : Memory) (v w : BitVec 32)

@[simp] theorem State.raiseBits_build : (s.raiseBits v).build = s.build := rfl

@[simp] theorem State.raiseBits_cfg : (s.raiseBits v).cfg = s.cfg := rfl

@[simp] theorem State.raiseBits_mem : (s.raiseBits v).mem = s.mem := rfl

@[simp] theorem State.raiseBits_epoch : (s.raiseBits v).epoch = s.epoch := rfl

@[simp] theorem State.sampled_build (p : Sample) : (s.sampled h p).build = s.build := by
  simp [State.sampled]

@[simp] theorem State.sampled_cfg (p : Sample) : (s.sampled h p).cfg = s.cfg := by
  simp [State.sampled]

@[simp] theorem State.sampled_mem (p : Sample) : (s.sampled h p).mem = s.sampleMem p := by
  simp [State.sampled]

@[simp] theorem State.sampled_epoch (p : Sample) : (s.sampled h p).epoch = s.epoch := by
  simp [State.sampled]

theorem raiseBits_raiseBits : (s.raiseBits v).raiseBits w = s.raiseBits (v ||| w) := by
  simp only [State.raiseBits, BitVec.or_assoc]

theorem setMem_setMem : (s.setMem m).setMem n = s.setMem n := rfl

theorem setMem_raiseBits : (s.setMem m).raiseBits v = (s.raiseBits v).setMem m := rfl

theorem setLane_raiseBits : (s.setLane h r).raiseBits v = (s.raiseBits v).setLane h r := by
  cases h <;> rfl

theorem setLane_setMem : (s.setLane h r).setMem m = (s.setMem m).setLane h r := by
  cases h <;> rfl

theorem setLane_comm {g : LaneId} (hne : g ≠ h) (q : LaneRegs) :
    (s.setLane g q).setLane h r = (s.setLane h r).setLane g q := by
  cases g <;> cases h <;> simp_all [State.setLane]

theorem raiseNumIf_eq (ovf : Bool) : s.raiseNumIf ovf = s.raiseBits (numBits ovf) := by
  cases ovf
  · simp [State.raiseNumIf, State.raiseBits, numBits]
  · rfl

end Updates

theorem writeBank_raiseBits (s : State) {v : BitVec 32} (hv : v.getLsbD wbBit = false) :
    (s.raiseBits v).writeBank = s.writeBank := by
  have hflag : (s.raiseBits v).flag wbBit = s.flag wbBit := by
    rw [State.flag, State.raiseBits, BitVec.getLsbD_or, hv, Bool.or_false, State.flag]
  rw [State.writeBank, State.writeBank, hflag]

/-- WB is no error bit. -/
theorem wbBit_numBits (ovf : Bool) : (numBits ovf).getLsbD wbBit = false := by
  cases ovf <;> decide

theorem wbBit_rangeBits (inGrid : Bool) : (rangeBits inGrid).getLsbD wbBit = false := by
  cases inGrid <;> decide

theorem emit_eq {s t : State} {p : Sample} (h : s.emit p = .ok t) :
    t = (s.raiseBits (rangeBits (s.cfg.inGrid p))).setMem (s.sampleMem p) := by
  obtain ⟨hgrid, hplot⟩ | ⟨hgrid, rfl⟩ := emit_cases h
  · rw [plot_eq_plotted hplot]
    simp [State.raiseBits, State.sampleMem, State.sampleAction, hgrid, rangeBits, Sample.row,
      Sample.column]
  · simp only [State.sampleMem, State.sampleAction, hgrid, rangeBits, Bool.false_eq_true, if_false,
      Bank.plotted_drop, Memory.setBank_bank]
    rfl

/-- What plotting a sample does depends on the configuration and the memories alone. -/
theorem sampleMem_congr {s t : State} (hcfg : t.cfg = s.cfg) (hbank : t.writeBank = s.writeBank)
    (hmem : t.mem = s.mem) (hepoch : t.epoch = s.epoch) (p : Sample) :
    t.sampleMem p = s.sampleMem p := by
  have haction (row : Nat) (x : BitVec 10) : t.plotActionAt row x = s.plotActionAt row x :=
    plotActionAt_congr hbank (by rw [State.capVal, State.capVal, hmem])
      (by rw [State.cntVal, State.cntVal, hmem])
      (fun k _ => by rw [State.slotVal, State.slotVal, hmem, hepoch]) x
  rw [State.sampleMem, State.sampleMem, State.sampleAction, State.sampleAction, hcfg, hbank, hmem,
    haction]

theorem iterationStep_eq_sampled {s t : State} {h : LaneId} {p : Sample}
    (hp : s.laneSample h = .ok p) (ht : iterationStep h s = .next t) : t = s.sampled h p := by
  obtain ⟨q, hq, hemit⟩ := iterationStep_cases ht
  obtain rfl : p = q := Except.ok.inj (hp.symm.trans hq)
  rw [raiseNumIf_eq] at hemit
  have hbank : ((s.raiseBits (numBits (s.cfg.indices (s.lane h)).2.2)).setLane h
      ((s.lane h).iterated p)).writeBank = s.writeBank := by
    rw [State.writeBank_setLane, writeBank_raiseBits _ (wbBit_numBits _)]
  rw [emit_eq hemit, sampleMem_congr (by simp) hbank (by simp) (by simp), setLane_raiseBits,
    setLane_setMem, raiseBits_raiseBits, State.setLane_cfg]
  rfl

/-- From a busy lane below ITER_COUNT the turn is an iteration step (41_mapper.md R142). -/
theorem laneStep_eq_sampled {s t : State} {h : LaneId} {p : Sample} (hbusy : s.busy h = true)
    (hj : (s.lane h).j.toNat < s.cfg.iterCount.toNat) (hp : s.laneSample h = .ok p)
    (ht : laneStep h s = .next t) : t = s.sampled h p := by
  rw [laneStep, if_pos hbusy, if_pos hj] at ht
  exact iterationStep_eq_sampled hp ht

/-! ### Two samples that do not meet in a row -/

/-- One of the samples is outside the grid, or they fall in different rows. -/
def RowsApart (c : CfgRegs) (p q : Sample) : Prop :=
  c.inGrid p = false ∨ c.inGrid q = false ∨ p.row ≠ q.row

theorem RowsApart.symm {c : CfgRegs} {p q : Sample} (h : RowsApart c p q) : RowsApart c q p := by
  obtain hp | hq | hne := h
  · exact .inr (.inl hp)
  · exact .inl hq
  · exact .inr (.inr hne.symm)

theorem RowsApart.row_ne {c : CfgRegs} {p q : Sample} (h : RowsApart c p q)
    (hp : c.inGrid p = true) (hq : c.inGrid q = true) : p.row ≠ q.row := by
  simpa [RowsApart, hp, hq] using h

/-- A sample in the grid falls in a row of the space (41_mapper.md R147). -/
theorem row_lt_rowsMax {s : State} (hinv : Inv s) {p : Sample} (hgrid : s.cfg.inGrid p = true) :
    p.row < s.build.rowsMax := by
  obtain ⟨-, hge, hlt⟩ := (inGrid_iff _ _).mp hgrid
  have hsize : s.cfg.pixelSize.toNat < 2 ^ 24 := s.cfg.pixelSize.isLt.trans (by decide)
  exact (ftruncU_lt hsize hge hlt).trans_le (pixelSize_le_rowsMax hinv)

theorem mem_sampleAction_cntWrite {s : State} {p : Sample} {c : Nat × BitVec 11}
    (hc : c ∈ (s.sampleAction p).cntWrite p.row) : s.cfg.inGrid p = true ∧ c.1 = p.row := by
  refine ⟨?_, row_of_mem_cntWrite hc⟩
  by_contra hgrid
  rw [State.sampleAction, if_neg hgrid] at hc
  cases hc

theorem mem_sampleAction_slotWrite {s : State} (hinv : Inv s) {p : Sample} {e : Entry}
    {c : Nat × Entry} (hc : c ∈ (s.sampleAction p).slotWrite p.row e) :
    s.cfg.inGrid p = true ∧ c.1 / 1024 = p.row := by
  by_cases hgrid : s.cfg.inGrid p = true
  · rw [State.sampleAction, if_pos hgrid] at hc
    exact ⟨hgrid, row_of_mem_slotWrite hinv (row_lt_rowsMax hinv hgrid) hc⟩
  · rw [State.sampleAction, if_neg hgrid] at hc
    cases hc

section Apart

variable {s : State} {p q : Sample}

/-- Plotting a sample leaves what a sample apart from it does. -/
theorem sampleAction_setMem_sampleMem (hinv : Inv s) (hapart : RowsApart s.cfg p q) :
    (s.setMem (s.sampleMem p)).sampleAction q = s.sampleAction q := by
  rw [State.sampleAction, State.sampleAction, State.setMem_cfg]
  split
  next hq =>
    have hcount := cntVal_le_capMax hinv s.writeBank (row_lt_rowsMax hinv hq)
    have hmax := capMax_le s.build
    have hcap : (s.setMem (s.sampleMem p)).capVal q.row = s.capVal q.row := by
      simp [State.capVal, State.sampleMem]
    refine plotActionAt_congr (State.writeBank_setMem s _) hcap ?_ (fun k hk => ?_) _
    · have hget : ∀ c ∈ (s.sampleAction p).cntWrite p.row, q.row ≠ c.1 := fun c hc => by
        obtain ⟨hp, hrow⟩ := mem_sampleAction_cntWrite hc
        exact hrow ▸ (hapart.row_ne hp hq).symm
      simp [State.cntVal, cellsGetZ, State.sampleMem, Bank.plotted, cellsGet?_put?_other _ hget]
    · have hget : ∀ c ∈ (s.sampleAction p).slotWrite p.row (packEntry p.column p.c),
          slotKey q.row k ≠ c.1 := fun c hc => by
        obtain ⟨hp, hrow⟩ := mem_sampleAction_slotWrite hinv hc
        have hne := hapart.row_ne hp hq
        unfold slotKey; omega
      simp [State.slotVal, State.sampleMem, Bank.plotted, cellsGet?_put?_other _ hget]
  next => rfl

theorem plotted_comm (hinv : Inv s) (hapart : RowsApart s.cfg p q) (b : Bank) (e d : Entry) :
    (b.plotted p.row e (s.sampleAction p)).plotted q.row d (s.sampleAction q) =
      (b.plotted q.row d (s.sampleAction q)).plotted p.row e (s.sampleAction p) := by
  have hcnt := cellsPut?_comm b.cnt (c := (s.sampleAction p).cntWrite p.row)
    (d := (s.sampleAction q).cntWrite q.row) fun v hv w hw => by
      obtain ⟨hp, hrow⟩ := mem_sampleAction_cntWrite hv
      obtain ⟨hq, hrow'⟩ := mem_sampleAction_cntWrite hw
      have hne := hapart.row_ne hp hq
      omega
  have hslot := cellsPut?_comm b.slot (c := (s.sampleAction p).slotWrite p.row e)
    (d := (s.sampleAction q).slotWrite q.row d) fun v hv w hw => by
      obtain ⟨hp, hrow⟩ := mem_sampleAction_slotWrite hinv hv
      obtain ⟨hq, hrow'⟩ := mem_sampleAction_slotWrite hinv hw
      have hne := hapart.row_ne hp hq
      omega
  simp only [Bank.plotted, hcnt, hslot]

/-- Two samples apart, one after the other, take on the write bank the actions each would take alone. -/
theorem sampleMem_setMem_sampleMem (hinv : Inv s) (hapart : RowsApart s.cfg p q) :
    (s.setMem (s.sampleMem p)).sampleMem q = s.mem.setBank s.writeBank
      (((s.mem.bank s.writeBank).plotted p.row (packEntry p.column p.c) (s.sampleAction p)).plotted
        q.row (packEntry q.column q.c) (s.sampleAction q)) := by
  rw [State.sampleMem, sampleAction_setMem_sampleMem hinv hapart]
  simp only [State.writeBank_setMem, State.setMem_mem, State.sampleMem, Memory.bank_setBank_same,
    Memory.setBank_setBank]

theorem sampleMem_setMem_comm (hinv : Inv s) (hapart : RowsApart s.cfg p q) :
    (s.setMem (s.sampleMem p)).sampleMem q = (s.setMem (s.sampleMem q)).sampleMem p := by
  rw [sampleMem_setMem_sampleMem hinv hapart, sampleMem_setMem_sampleMem hinv hapart.symm,
    plotted_comm hinv hapart]

end Apart

/-! ### Two iteration steps -/

theorem writeBank_sampled (s : State) (h : LaneId) (p : Sample) :
    (s.sampled h p).writeBank = s.writeBank := by
  rw [State.sampled, State.writeBank_setLane, State.writeBank_setMem, writeBank_raiseBits]
  rw [CfgRegs.sampleErrors, BitVec.getLsbD_or, wbBit_numBits, wbBit_rangeBits]
  rfl

/-- The second step reads its own lane's registers and the memories the first one left, so the two are
one update. -/
theorem sampled_sampled (s : State) {g h : LaneId} (hne : g ≠ h) (p q : Sample) :
    (s.sampled g p).sampled h q =
      (((s.raiseBits (s.cfg.sampleErrors (s.lane g) p ||| s.cfg.sampleErrors (s.lane h) q)).setMem
        ((s.setMem (s.sampleMem p)).sampleMem q)).setLane g ((s.lane g).iterated p)).setLane h
        ((s.lane h).iterated q) := by
  have hlane : (s.sampled g p).lane h = s.lane h := by
    rw [State.sampled, State.lane_setLane_other _ _ hne.symm]
    exact State.lane_congr rfl rfl h
  have hmem : (s.sampled g p).sampleMem q = (s.setMem (s.sampleMem p)).sampleMem q :=
    sampleMem_congr (s := s.setMem (s.sampleMem p)) (by simp) (writeBank_sampled s g p) (by simp)
      (by simp) q
  rw [State.sampled, hlane, State.sampled_cfg, hmem, State.sampled, setLane_raiseBits, setLane_setMem,
    setMem_raiseBits, setMem_setMem, raiseBits_raiseBits]

theorem sampled_comm {s : State} (hinv : Inv s) {g h : LaneId} (hne : g ≠ h) {p q : Sample}
    (hapart : RowsApart s.cfg p q) :
    (s.sampled g p).sampled h q = (s.sampled h q).sampled g p := by
  rw [sampled_sampled s hne, sampled_sampled s hne.symm, sampleMem_setMem_comm hinv hapart,
    BitVec.or_comm, setLane_comm _ _ _ hne]

/-- A lane's sample depends on its registers, the configuration and the table (41_mapper.md R143). -/
theorem laneSample_congr {s t : State} {h : LaneId} (hlane : t.lane h = s.lane h)
    (hcfg : t.cfg = s.cfg) (hbuild : t.build = s.build) (hlut : t.mem.lut = s.mem.lut)
    (hepoch : t.epoch = s.epoch) : t.laneSample h = s.laneSample h := by
  have hread (k : Nat) : t.readLut k = s.readLut k := by
    rw [State.readLut, State.readLut, State.lutVal, State.lutVal, hbuild, hlut, hepoch]
  simp only [State.laneSample, hlane, hcfg, hread]

/-- One iteration step of each lane: the second computes the sample it would have computed first. -/
theorem laneStep_laneStep {s t u : State} {g h : LaneId} (hne : g ≠ h) {p q : Sample} (hinv : Inv s)
    (hgbusy : s.busy g = true) (hhbusy : s.busy h = true)
    (hgj : (s.lane g).j.toNat < s.cfg.iterCount.toNat)
    (hhj : (s.lane h).j.toNat < s.cfg.iterCount.toNat)
    (hp : s.laneSample g = .ok p) (hq : s.laneSample h = .ok q)
    (ht : laneStep g s = .next t) (hu : laneStep h t = .next u) :
    u = (s.sampled g p).sampled h q := by
  have hkept := laneStep_kept ht
  have hother : Turn.lane g ≠ .lane h := fun hturn => hne (Turn.lane.inj hturn)
  obtain ⟨hcfg, hlut, -⟩ := hkept.config (mode_eq_run_of_busy hinv hgbusy)
  have hlane := hkept.lanes h hother hhbusy
  obtain rfl := laneStep_eq_sampled hgbusy hgj hp ht
  refine laneStep_eq_sampled (hkept.busy hother hhbusy) (by rwa [hlane, hcfg]) ?_ hu
  rw [laneSample_congr hlane hcfg (by simp) hlut (by simp), hq]

/-- Settles O57: each order of the two steps is one update of STATUS, the write bank and both lanes'
registers, and its parts commute. -/
theorem lanesInDifferentRowsCommute : Obligations.LanesInDifferentRowsCommute := by
  intro s t0 t01 t1 t10 p0 p1 hinv hbusy0 hbusy1 hj0 hj1 hp0 hp1 hapart ht0 ht01 ht1 ht10
  have hne : LaneId.lane0 ≠ .lane1 := by decide
  rw [laneStep_laneStep hne hinv hbusy0 hbusy1 hj0 hj1 hp0 hp1 ht0 ht01,
    laneStep_laneStep hne.symm hinv hbusy1 hbusy0 hj1 hj0 hp1 hp0 ht1 ht10]
  exact sampled_comm hinv hne hapart

end Sys2Proof.Machine
end

section
/-! The display bank (20_memory.md R70): every write goes to the write bank, and the one command that
exchanges the banks is SWAP. -/

namespace Sys2Proof.Machine

/-! ### What leaves WB as it was -/

theorem writeBank_setFlag_other (s : State) {n : Nat} (b : Bool) (hn : wbBit ≠ n) :
    (s.setFlag n b).writeBank = s.writeBank := by
  rw [State.writeBank, State.writeBank, State.flag_setFlag_other s b hn]

theorem wbBit_ne_busyBit (h : LaneId) : wbBit ≠ busyBit h := by cases h <;> decide

theorem plot_writeBank {s t : State} {row : Nat} {x : BitVec 10} {c : Colour}
    (h : s.plot row x c = .ok t) : t.writeBank = s.writeBank := by
  rw [plot_eq_plotted h, State.writeBank_setMem]

/-- Every command but SWAP leaves WB (10_state.md R33). -/
theorem exec_writeBank {i : Instr} {s t : State} (hi : i ≠ .swap) (h : exec i s = .next t) :
    t.writeBank = s.writeBank := by
  cases i with
  | nop => cases h; simp
  | cfgw reg value =>
    rcases execCfgw_cases h with rfl | rfl | rfl | ⟨-, -, -, rfl⟩
    · simp
    · simp
    · simp
    · rw [State.writeBank_accept]; rfl
  | lutw idx value => rcases execLutw_cases h with rfl | rfl | ⟨-, -, rfl⟩ <;> simp
  | capw row cap => rcases execCapw_cases h with rfl | rfl | ⟨-, -, -, rfl⟩ <;> simp
  | lock =>
    rcases execLock_cases h with rfl | ⟨-, rfl⟩
    · simp
    · rw [State.writeBank_accept, writeBank_setFlag_other s true (by decide)]
  | stat => cases h; rw [State.writeBank_accept]; rfl
  | clear => rcases execClear_cases h with rfl | ⟨-, -, rfl⟩ <;> simp
  | plot row x colour =>
    rcases execPlot_cases h with rfl | rfl | ⟨-, -, -, u, hplot, rfl⟩
    · simp
    · simp
    · rw [State.writeBank_accept, plot_writeBank hplot]
  | gen g time =>
    rcases execGen_cases h with rfl | ⟨-, -, rfl⟩
    · simp
    · rw [State.writeBank_accept, writeBank_setFlag_other _ _ (wbBit_ne_busyBit g),
        State.writeBank_setLane]
  | join => rcases execJoin_cases h with rfl | ⟨-, -, rfl⟩ | ⟨-, -, rfl⟩ <;> simp
  | swap => exact absurd rfl hi
  | sline row =>
    rcases execSline_cases h with ⟨-, rfl⟩ | ⟨-, -, rfl⟩
    · rw [State.writeBank_accept, State.writeBank_raise]; rfl
    · rw [State.writeBank_accept]; rfl
  | vsync =>
    cases h
    rw [State.writeBank_accept, writeBank_setFlag_other s true (by decide)]

theorem laneStep_writeBank {h : LaneId} {s t : State} (ht : laneStep h s = .next t) :
    t.writeBank = s.writeBank := by
  obtain ⟨-, rfl⟩ | ⟨-, -, hiter⟩ | ⟨-, -, hend⟩ := laneStep_cases ht
  · rfl
  · obtain ⟨p, hp, -⟩ := iterationStep_cases hiter
    rw [iterationStep_eq_sampled hp hiter, writeBank_sampled]
  · obtain ⟨-, rfl⟩ | ⟨-, rfl⟩ := endOfCurveStep_cases hend
    · rw [writeBank_setFlag_other _ _ (wbBit_ne_busyBit h), State.writeBank_setLane]
    · rw [State.writeBank_setLane]

/-- WB changes only in an accepted SWAP (43_sync_scanout.md R191). -/
theorem portStep_writeBank {p : PortId} {s t : State} (h : portStep p s = .next t) :
    t.writeBank = s.writeBank ∨
      (p = .h ∧ Presents s .h .swap ∧ s.mode = .run ∧ s.swapReady = true) := by
  unfold portStep at h
  split at h
  · cases h; exact .inl rfl
  next w hw =>
    split at h
    · rw [reject_next.mp h]; simp
    next i hdec =>
      by_cases hi : i = .swap
      · subst hi
        obtain rfl := port_of_decodeOn hdec
        rcases execSwap_cases h with rfl | ⟨hrun, hready, -⟩ | ⟨-, -, rfl⟩
        · simp
        · exact .inr ⟨rfl, ⟨w, hw, hdec⟩, hrun, hready⟩
        · exact .inl rfl
      · exact .inl (exec_writeBank hi h)

/-! ### The other bank -/

/-- No command writes the bank that is not the write bank (20_memory.md R70). -/
theorem Effect.bank_other {s t : State} (h : Effect s t) :
    t.mem.bank s.writeBank.other = s.mem.bank s.writeBank.other := by
  have hother (b : Bank) : (s.mem.setBank s.writeBank b).bank s.writeBank.other =
      s.mem.bank s.writeBank.other := Memory.bank_setBank_other _ b (BankId.other_ne _)
  cases h with
  | cleared => exact hother _
  | plotted _ hplot => rw [plot_eq_plotted hplot]; exact hother _
  | started g time => simp
  | tableLoaded k v => cases s.writeBank.other <;> rfl
  | capacitySet row cap => cases s.writeBank.other <;> rfl
  | _ => rfl

theorem portStep_bank_other {p : PortId} {s t : State} (h : portStep p s = .next t) :
    t.mem.bank s.writeBank.other = s.mem.bank s.writeBank.other := by
  obtain rfl | ⟨u, hu, rfl⟩ := portStep_effect h
  · rfl
  · rw [State.accept_mem, hu.bank_other]

theorem laneStep_bank_other {h : LaneId} {s t : State} (ht : laneStep h s = .next t) :
    t.mem.bank s.writeBank.other = s.mem.bank s.writeBank.other := by
  obtain ⟨-, rfl⟩ | ⟨-, -, hiter⟩ | ⟨-, -, hend⟩ := laneStep_cases ht
  · rfl
  · obtain ⟨p, hp, -⟩ := iterationStep_cases hiter
    rw [iterationStep_eq_sampled hp hiter, State.sampled_mem]
    exact Memory.bank_setBank_other _ _ (BankId.other_ne _)
  · obtain ⟨-, rfl⟩ | ⟨-, rfl⟩ := endOfCurveStep_cases hend <;> simp

theorem swapReady_iff (s : State) : s.swapReady = true ↔
    s.busy .lane0 = false ∧ s.busy .lane1 = false ∧ s.vsp = true := by
  simp [State.swapReady, State.anyBusy, and_assoc]

/-- What a turn but the reset pin's does to the banks. -/
theorem runTurn_banks {a : Turn} {s t : State} (h : runTurn a s = .next t) (ha : a ≠ .resetPin) :
    t.mem.bank s.writeBank.other = s.mem.bank s.writeBank.other ∧
    (t.writeBank ≠ s.writeBank →
      a = .host ∧ Presents s .h .swap ∧ s.mode = .run ∧ s.swapReady = true) := by
  cases a with
  | host =>
    refine ⟨portStep_bank_other h, fun hne => ?_⟩
    obtain ⟨-, hswap⟩ := (portStep_writeBank h).resolve_left hne
    exact ⟨rfl, hswap⟩
  | sink =>
    refine ⟨portStep_bank_other h, fun hne => ?_⟩
    obtain ⟨hp, -⟩ := (portStep_writeBank h).resolve_left hne
    cases hp
  | lane l => exact ⟨laneStep_bank_other h, fun hne => absurd (laneStep_writeBank h) hne⟩
  | resetPin => exact absurd rfl ha

@[simp] theorem presented_passTurn (s : State) (p : PortId) :
    s.passTurn.presented p = s.presented p := by
  rw [State.presented, State.presented, State.port_passTurn]

@[simp] theorem presents_passTurn (s : State) (p : PortId) (i : Instr) :
    Presents s.passTurn p i ↔ Presents s p i := by
  rw [Presents, Presents, presented_passTurn]

@[simp] theorem vsp_passTurn (s : State) : s.passTurn.vsp = s.vsp := State.flag_passTurn s vspBit

/-- Settles O51: a Plot and a CLEAR replace the write bank, and WB is written by SWAP alone. -/
theorem displayBankIsIsolated : Obligations.DisplayBankIsIsolated := by
  intro s t h hreset
  obtain ⟨hbank, hswap⟩ := runTurn_banks h hreset
  simp only [State.writeBank_passTurn, State.passTurn_mem, presents_passTurn, State.mode_passTurn,
    swapReady_iff, State.busy_passTurn, vsp_passTurn] at hbank hswap
  exact ⟨by rwa [State.displayBank_eq_other], hswap⟩

end Sys2Proof.Machine
end

section
/-! Command words as bytes (20_memory.md R62), and back to the command. -/

namespace Sys2Proof

theorem extractLsb'_ushiftRight_byte {m : Nat} (w : BitVec m) (k : Nat) :
    (w >>> 8).extractLsb' (8 * k) 8 = w.extractLsb' (8 * (k + 1)) 8 := by
  apply BitVec.eq_of_getLsbD_eq; intro i hi
  simp only [BitVec.getLsbD_extractLsb', BitVec.getLsbD_ushiftRight]
  rw [show 8 + (8 * k + i) = 8 * (k + 1) + i by omega]

/-- Byte `k` of the serialised word is its bits `8k+7 .. 8k`. -/
theorem getElem?_toBytes {m n : Nat} (w : BitVec m) {k : Nat} (hk : k < n) :
    (toBytes n w)[k]? = some (w.extractLsb' (8 * k) 8) := by
  induction n generalizing w k with
  | zero => omega
  | succ n ih =>
    cases k with
    | zero => rfl
    | succ k =>
      rw [toBytes, List.getElem?_cons_succ, ih _ (by omega), extractLsb'_ushiftRight_byte]

/-! ### Decoding an encoded command (30_encoding.md R91, R93) -/

theorem extractLsb'_setWidth_self {n m : Nat} (hnm : n ≤ m) (v : BitVec n) :
    (v.setWidth m).extractLsb' 0 n = v := by
  apply BitVec.eq_of_getLsbD_eq; intro k hk
  simp [hk, hk.trans_le hnm]

theorem laneOfBit_bit (h : LaneId) : laneOfBit h.bit = h := by cases h <;> rfl

/-- The three fields of format P, read back from `D`. -/
theorem plot_fields (row x : BitVec 10) (colour : Colour) :
    (Instr.plot row x colour).encD.extractLsb' 16 10 = row ∧
    (Instr.plot row x colour).encD.extractLsb' 6 10 = x ∧
    (Instr.plot row x colour).encD.extractLsb' 0 6 = colour := by
  refine ⟨?_, ?_, ?_⟩ <;> apply BitVec.eq_of_getLsbD_eq <;> intro k hk
  · have hx : x.getLsbD (16 + k - 6) = false := BitVec.getLsbD_of_ge _ _ (by omega)
    have hcolour : colour.getLsbD (16 + k) = false := BitVec.getLsbD_of_ge _ _ (by omega)
    simp [Instr.encD, hk, show 16 + k < 32 by omega, hx, hcolour]
  · simp [Instr.encD, hk, show 6 + k < 32 by omega, show ¬ 16 ≤ 6 + k by omega]
  · simp [Instr.encD, hk, show k < 32 by omega, show ¬ 16 ≤ k by omega]

/-- Each row of the opcode map reads the command back from its word. -/
theorem read_encode {i : Instr} {r : Row} (hr : rowOf i.op = some r) : r.read (encode i) = i := by
  cases i with
  | cfgw reg value =>
    cases hr
    simp only [argA_encode, argD_encode, Instr.encA, Instr.encD]
    rw [extractLsb'_setWidth_self (by decide)]
  | lutw idx value =>
    cases hr
    simp only [argA_encode, argD_encode, Instr.encA, Instr.encD]
    rw [extractLsb'_setWidth_self (by decide)]
  | capw row cap =>
    cases hr
    simp only [argA_encode, argD_encode, Instr.encA, Instr.encD]
    rw [extractLsb'_setWidth_self (by decide), extractLsb'_setWidth_self (by decide)]
  | plot row x colour =>
    cases hr
    obtain ⟨hrow, hx, hcolour⟩ := plot_fields row x colour
    simp only [argD_encode, hrow, hx, hcolour]
  | gen h time =>
    cases hr
    simp only [argA_encode, argD_encode, Instr.encA, Instr.encD]
    simp [laneOfBit_bit]
  | sline row =>
    cases hr
    simp only [argA_encode, Instr.encA]
    rw [extractLsb'_setWidth_self (by decide)]
  | nop | lock | stat | clear | join | swap | vsync => cases hr; rfl

theorem encodedRow (i : Instr) : Laws.EncodedRow.Statement i := by
  cases i with
  | nop => exact Laws.EncodedRow.nop
  | cfgw reg value => exact Laws.EncodedRow.cfgw reg value
  | lutw idx value => exact Laws.EncodedRow.lutw idx value
  | capw row cap => exact Laws.EncodedRow.capw row cap
  | lock => exact Laws.EncodedRow.lock
  | stat => exact Laws.EncodedRow.stat
  | clear => exact Laws.EncodedRow.clear
  | plot row x colour => exact Laws.EncodedRow.plot row x colour
  | gen h time => exact Laws.EncodedRow.gen h time
  | join => exact Laws.EncodedRow.join
  | swap => exact Laws.EncodedRow.swap
  | sline row => exact Laws.EncodedRow.sline row
  | vsync => exact Laws.EncodedRow.vsync

theorem decodeWord_encode {i : Instr} (hi : i.wellFormed = true) :
    decodeWord (encode i) = .ok i := by
  obtain ⟨r, hr, -, hpattern⟩ := encodedRow i
  rw [decodeWord, opOf_encode, hr]
  simp only [Row.decode, if_pos hpattern, read_encode hr, hi, if_true]

/-- Settles O5: the low byte comes first, and the eight bytes are the word again. -/
theorem serialisedCommandsAreLittleEndian : Obligations.SerialisedCommandsAreLittleEndian := by
  refine ⟨fun w k hk => getElem?_toBytes w hk, fun i rest hi => ?_⟩
  rw [decodeBytes_toBytes, decodeWord_encode hi]
  rfl

end Sys2Proof
end

section
/-! A port's turn (20_memory.md R65, R76): the turn used up, then the command that the word stands for. -/

namespace Sys2Proof.Machine

theorem passTurn_eq (s : State) : s.passTurn = { s with
    turns := s.turns.tail, ticks := if s.turns = [] then s.ticks + 1 else s.ticks } := by
  unfold State.passTurn
  split
  next t ts hturns => simp [hturns]
  next hturns => simp [hturns]

theorem runTurn_turn (p : PortId) (s : State) : runTurn p.turn s = portStep p s := by
  cases p <;> rfl

theorem portStep_of_decodeOn {p : PortId} {s : State} {w : Word} {i : Instr}
    (hw : s.presented p = some w) (hi : decodeOn p w = .ok i) : portStep p s = exec i s := by
  simp only [portStep, hw, hi]

/-- Settles O6: the turn of a port's agent is the port's step, and a turn used up is one off the list,
or one tick more. -/
theorem stepRunsTheDecodedCommand : Obligations.StepRunsTheDecodedCommand := by
  intro s p w i hturn hw hi
  refine ⟨?_, passTurn_eq s⟩
  rw [step, hturn, runTurn_turn, portStep_of_decodeOn (by rwa [presented_passTurn]) hi]

end Sys2Proof.Machine
end

section
/-! The table index (20_memory.md R64; 41_mapper.md R144) as the remainder of the converted sum. -/

namespace Sys2Proof.Machine

/-- MASK keeps the low LOG2N bits, so an index is a remainder by N. -/
theorem index_eq_mod (c : CfgRegs) (a p : F32) :
    c.index a p = ((f2i (fmul (fadd a p) c.idxScale)).1.toNat % 2 ^ c.log2n.toNat,
      (f2i (fmul (fadd a p) c.idxScale)).2) := by
  have hmask : c.mask.toNat = 2 ^ c.log2n.toNat - 1 := by
    have hpow : 2 ^ c.log2n.toNat ≤ 2 ^ 31 :=
      Nat.pow_le_pow_right (by decide) (Nat.le_of_lt_succ c.log2n.isLt)
    rw [CfgRegs.mask, BitVec.toNat_ofNat, CfgRegs.tableSize]
    exact Nat.mod_eq_of_lt (by omega)
  rw [CfgRegs.index, BitVec.toNat_and, hmask, Nat.and_two_pow_sub_one_eq_mod]

theorem toNat_ofInt_mod {n : Nat} (hn : n ≤ 32) (z : Int) :
    (BitVec.ofInt 32 z).toNat % 2 ^ n = (z % 2 ^ n).toNat := by
  have hdvd : (2 ^ n : Int) ∣ 2 ^ 32 := pow_dvd_pow 2 hn
  have hcast : (((BitVec.ofInt 32 z).toNat % 2 ^ n : Nat) : Int) = z % 2 ^ n := by
    rw [BitVec.toNat_ofInt, Int.natCast_mod, Int.toNat_of_nonneg (Int.emod_nonneg _ (by decide)),
      Nat.cast_pow, Nat.cast_pow, Nat.cast_ofNat, Int.emod_emod_of_dvd z hdvd]
  omega

/-- The index and overflow bit, from the integer that the conversion gives. -/
theorem index_of_f2i {c : CfgRegs} {a p : F32} {z : Int} {ovf : Bool}
    (hf2i : f2i (fmul (fadd a p) c.idxScale) = (BitVec.ofInt 32 z, ovf)) :
    c.index a p = ((z % 2 ^ c.log2n.toNat).toNat, ovf) := by
  rw [index_eq_mod, hf2i, toNat_ofInt_mod (Nat.le_of_lt c.log2n.isLt)]

/-- The greatest 32-bit integer is one below a multiple of N. -/
theorem maxInt_emod_two_pow {n : Nat} (hn : n ≤ 31) :
    ((2 ^ 31 - 1 : Int) % 2 ^ n).toNat = 2 ^ n - 1 := by
  have hpos : (0 : Int) < 2 ^ n := by positivity
  have hsplit : (2 ^ 31 - 1 : Int) = (2 ^ n - 1) + 2 ^ n * (2 ^ (31 - n) - 1) := by
    have hpow : (2 : Int) ^ n * 2 ^ (31 - n) = 2 ^ 31 := by rw [← pow_add, Nat.add_sub_cancel' hn]
    linarith
  rw [hsplit, Int.add_mul_emod_self_left, Int.emod_eq_of_lt (by omega) (by omega)]
  have hcast : ((2 ^ n : Nat) : Int) = 2 ^ n := by push_cast; rfl
  omega

theorem minInt_emod_two_pow {n : Nat} (hn : n ≤ 31) : ((- 2 ^ 31 : Int) % 2 ^ n).toNat = 0 := by
  rw [Int.emod_eq_zero_of_dvd ((pow_dvd_pow 2 hn).neg_right), Int.toNat_zero]

/-- An index and the quarter period behind it, in a table of N elements (10_state.md R30). -/
theorem index_bounds {c : CfgRegs} (a p : F32) (hlow : 2 ≤ c.log2n.toNat)
    (hhigh : c.log2n.toNat ≤ 16) : (c.index a p).1 ≤ c.tableSize - 1 ∧
      (c.index a p).1 + c.tableSize / 4 ≤ 5 * c.tableSize / 4 - 1 ∧
      5 * c.tableSize / 4 ≤ Build.default.lutDepth := by
  have hlt := index_lt_tableSize c a p
  have hfour : c.tableSize = 4 * 2 ^ (c.log2n.toNat - 2) := by
    rw [CfgRegs.tableSize, ← Nat.pow_add' 2 _ 2, Nat.sub_add_cancel hlow]
  have hmax : c.tableSize ≤ 2 ^ 16 := Nat.pow_le_pow_right (by decide) hhigh
  have hdepth : Build.default.lutDepth = 5 * 2 ^ 16 / 4 := rfl
  omega

/-- Settles O31: each case of the conversion gives an integer, and the index is its remainder by N. -/
theorem tableIndicesStayInRange : Obligations.TableIndicesStayInRange := by
  intro c a p hlow hhigh
  have hle : c.log2n.toNat ≤ 31 := hhigh.trans (by decide)
  refine ⟨index_bounds a p hlow hhigh, rfl, fun hge hlt => ?_, fun hnan => ?_, fun hge => ?_,
    fun hlt => ?_⟩
  · exact index_of_f2i (f2i_of_between hge hlt)
  · rw [index_eq_mod]; simp [f2i, hnan]
  · rw [index_of_f2i (f2i_of_ge_twoPow31 hge), maxInt_emod_two_pow hle]; rfl
  · rw [index_of_f2i (f2i_of_lt_neg_twoPow31 hlt), minInt_emod_two_pow hle]

end Sys2Proof.Machine
end

section
/-! The race of 20_memory.md R72, on one state: both lanes are about to plot the same cell, each in the
colour of its own curve. -/

namespace Sys2Proof.Machine

/-- Both lanes at the centre of a grid of 16, at angles 0, on curves 0 and 8 of 16. The table gives each
of them column 8 of row 2, which holds one entry, in column 8. -/
def raceState : State :=
  { State.reset with
    build := { rowsMax := 16, capMax := 8, log2nMax := 4 }
    cfg := { CfgRegs.reset with
      pixelSize := 16, curveCount := 16, iterCount := 4, redShift := 2, idxScale := 0x3E800000 }
    status := 0x31
    lane0 := { x := 0x41000000, y := 0x41000000, a1 := 0, a2 := 0, i := 0, j := 0 }
    lane1 := { x := 0x41000000, y := 0x41000000, a1 := 0, a2 := 0, i := 8, j := 0 }
    mem :=
      { lut := [(0, 0x40800000), (1, 0x40E00000), (2, 0x40800000), (3, 0x3F800000), (4, 0x40800000)]
        cap := [(2, 4)]
        bank0 := { cnt := [(2, 1)], slot := [(slotKey 2 0, packEntry 8 0)] }
        bank1 := Bank.empty } }

theorem inv_raceState : Inv raceState :=
  ⟨by decide, by decide, by decide, by decide, by decide, fun b => by cases b <;> decide,
    by decide, by decide, fun h => by cases h <;> decide⟩

/-- The entry that two turns from `raceState` leave at place 0 of row 2, if they go on. -/
def raceEntry (turns : List Turn) : Option Entry :=
  match Host.Core.run core 2 { raceState with turns := turns } with
  | .next t => some (t.slotVal .bank0 2 0)
  | .fault _ => none
  | .refused _ => none

theorem exists_of_raceEntry {turns : List Turn} {e : Entry} (h : raceEntry turns = some e) :
    ∃ t, Host.Core.run core 2 { raceState with turns := turns } = .next t ∧
      t.slotVal .bank0 2 0 = e := by
  unfold raceEntry at h
  split at h
  next t ht => exact ⟨t, ht, Option.some.inj h⟩
  next => cases h
  next => cases h

theorem raceEntry_lane0_first :
    raceEntry [.lane .lane0, .lane .lane1] = some (packEntry 8 0x22) := by decide +kernel

theorem raceEntry_lane1_first :
    raceEntry [.lane .lane1, .lane .lane0] = some (packEntry 8 0x30) := by decide +kernel

/-- Settles O56 on `raceState`: the colour that stays is that of the lane that plots last. -/
theorem orderOfLanePlotsMatters : Obligations.OrderOfLanePlotsMatters := by
  obtain ⟨t, ht, hte⟩ := exists_of_raceEntry raceEntry_lane0_first
  obtain ⟨u, hu, hue⟩ := exists_of_raceEntry raceEntry_lane1_first
  have hbank : raceState.writeBank = .bank0 := by decide
  refine ⟨raceState, t, u, 2, 0, inv_raceState, by decide, by decide, ht, hu, by decide, ?_⟩
  rw [hbank, hte, hue]
  decide

end Sys2Proof.Machine
end

section
/-! Reading the fields of a word and encoding them again (30_encoding.md R90, R91): each row of the
opcode map takes over the bits its mask leaves free and puts its pattern in the others. -/

namespace Sys2Proof

/-! ### A word as `{op, A, D}` (30_encoding.md R90) -/

theorem word_ext {v w : Word} (hop : opOf v = opOf w) (hA : argA v = argA w) (hD : argD v = argD w) :
    v = w := by
  apply BitVec.eq_of_getLsbD_eq; intro k hk
  rcases Nat.lt_or_ge k 32 with h32 | h32
  · simpa [argD, h32] using congrArg (·.getLsbD k) hD
  rcases Nat.lt_or_ge k 56 with h56 | h56
  · simpa [argA, h32, show k - 32 < 24 by omega] using congrArg (·.getLsbD (k - 32)) hA
  · simpa [opOf, h56, show k - 56 < 8 by omega] using congrArg (·.getLsbD (k - 56)) hop

theorem opOf_and_or (u v w : Word) : opOf (u &&& v ||| w) = opOf u &&& opOf v ||| opOf w := by
  simp only [opOf, BitVec.extractLsb'_or, BitVec.extractLsb'_and]

theorem argA_and_or (u v w : Word) : argA (u &&& v ||| w) = argA u &&& argA v ||| argA w := by
  simp only [argA, BitVec.extractLsb'_or, BitVec.extractLsb'_and]

theorem argD_and_or (u v w : Word) : argD (u &&& v ||| w) = argD u &&& argD v ||| argD w := by
  simp only [argD, BitVec.extractLsb'_or, BitVec.extractLsb'_and]

/-! ### The operand fields (30_encoding.md R91) -/

theorem setWidth_extractLsb'_zero {n m : Nat} (v : BitVec m) :
    (v.extractLsb' 0 n).setWidth m = v &&& (BitVec.allOnes n).setWidth m := by
  apply BitVec.eq_of_getLsbD_eq; intro k hk
  simp [hk, Bool.and_comm]

theorem bit_laneOfBit (b : Bool) : (laneOfBit b).bit = b := by cases b <;> rfl

/-- The lane bit of format G, put back. -/
theorem encA_gen_laneOfBit (v : BitVec 24) (time : F32) :
    (Instr.gen (laneOfBit (v.getLsbD 0)) time).encA = v &&& (BitVec.allOnes 1).setWidth 24 := by
  rw [Instr.encA, bit_laneOfBit, ← setWidth_extractLsb'_zero]
  congr 1
  apply BitVec.eq_of_getLsbD_eq; intro k hk
  simp [Nat.lt_one_iff.mp hk]

/-- The three fields of format P, put back side by side. -/
theorem encD_plot_extractLsb' (v : BitVec 32) :
    (Instr.plot (v.extractLsb' 16 10) (v.extractLsb' 6 10) (v.extractLsb' 0 6)).encD =
      v &&& (BitVec.allOnes 26).setWidth 32 := by
  rw [← setWidth_extractLsb'_zero]
  apply BitVec.eq_of_getLsbD_eq; intro k hk
  rcases Nat.lt_or_ge k 6 with h6 | h6
  · simp [Instr.encD, h6, hk, show k < 16 by omega, show k < 26 by omega]
  rcases Nat.lt_or_ge k 16 with h16 | h16
  · simp [Instr.encD, h6, h16, hk, show k - 6 < 10 by omega, show k < 26 by omega]
  · simp [Instr.encD, h6, h16, hk, show ¬ k - 6 < 10 by omega, show k - 16 < 10 ↔ k < 26 by omega]

/-! ### The rows of the opcode map (30_encoding.md R93) -/

/-- A pattern is an opcode and nothing else, and a mask leaves no bit of the opcode free. -/
theorem fields_of_mem_opcodeMap : ∀ r ∈ opcodeMap,
    opOf r.pattern = r.op ∧ argA r.pattern = 0 ∧ argD r.pattern = 0 ∧ opOf (~~~ r.mask) = 0 := by
  decide

theorem op_read (w : Word) : ∀ r ∈ opcodeMap, (r.read w).op = r.op := by
  simp only [opcodeMap, List.forall_mem_cons]
  exact ⟨rfl, rfl, rfl, rfl, rfl, rfl, rfl, rfl, rfl, rfl, rfl, rfl, rfl, List.forall_mem_nil _⟩

/-- No two rows share an opcode. -/
theorem rowOf_op : ∀ r ∈ opcodeMap, rowOf r.op = some r := by
  simp only [opcodeMap, List.forall_mem_cons]
  exact ⟨rfl, rfl, rfl, rfl, rfl, rfl, rfl, rfl, rfl, rfl, rfl, rfl, rfl, List.forall_mem_nil _⟩

/-- What the encoder puts into `A` and `D` of the command read are the free bits of the word. -/
theorem encA_encD_read (w : Word) : ∀ r ∈ opcodeMap,
    (r.read w).encA = argA w &&& argA (~~~ r.mask) ∧
    (r.read w).encD = argD w &&& argD (~~~ r.mask) := by
  have no {m : Nat} (v : BitVec m) : 0 = v &&& 0 := BitVec.and_zero.symm
  have every {m : Nat} (v : BitVec m) : v = v &&& BitVec.allOnes m := BitVec.and_allOnes.symm
  have low {n m : Nat} (v : BitVec m) := setWidth_extractLsb'_zero (n := n) v
  simp only [opcodeMap, List.forall_mem_cons]
  exact ⟨⟨no _, no _⟩, ⟨low _, every _⟩, ⟨low _, every _⟩, ⟨low _, low _⟩, ⟨no _, no _⟩, ⟨no _, no _⟩,
    ⟨no _, no _⟩, ⟨no _, encD_plot_extractLsb' _⟩, ⟨encA_gen_laneOfBit _ _, every _⟩, ⟨no _, no _⟩,
    ⟨no _, no _⟩, ⟨low _, no _⟩, ⟨no _, no _⟩, List.forall_mem_nil _⟩

theorem encode_read {r : Row} (hr : r ∈ opcodeMap) (w : Word) :
    encode (r.read w) = w &&& ~~~ r.mask ||| r.pattern := by
  obtain ⟨hop, hpA, hpD, hfree⟩ := fields_of_mem_opcodeMap r hr
  obtain ⟨hA, hD⟩ := encA_encD_read w r hr
  apply word_ext
  · simp [opOf_encode, opOf_and_or, hop, hfree, op_read w r hr]
  · simp [argA_encode, argA_and_or, hpA, hA]
  · simp [argD_encode, argD_and_or, hpD, hD]

theorem encode_read_of_match {r : Row} (hr : r ∈ opcodeMap) {w : Word}
    (hw : w &&& r.mask = r.pattern) : encode (r.read w) = w := by
  rw [encode_read hr, ← hw]
  apply BitVec.eq_of_getLsbD_eq; intro k hk
  simp [hk, ← Bool.and_or_distrib_left]

theorem opOf_of_match {r : Row} (hr : r ∈ opcodeMap) {w : Word} (hw : w &&& r.mask = r.pattern) :
    opOf w = r.op := by
  rw [← encode_read_of_match hr hw, opOf_encode, op_read _ r hr]

/-- The one check beside the masks: the register number of CFGW (30_encoding.md R96). -/
theorem wellFormed_read_iff (w : Word) : ∀ r ∈ opcodeMap, ((r.read w).wellFormed = true ↔
    (r.op = 0x01 → ((argA w).extractLsb' 0 4).toNat ≤ 11)) := by
  have other {op : BitVec 8} {q : Prop} (hop : op ≠ 0x01 := by decide) :
      true = true ↔ (op = 0x01 → q) := iff_of_true rfl fun h => absurd h hop
  have cfgw {q : Prop} [Decidable q] : decide q = true ↔ (True → q) := by simp
  simp only [opcodeMap, List.forall_mem_cons]
  exact ⟨other, cfgw, other, other, other, other, other, other, other, other, other, other, other,
    List.forall_mem_nil _⟩

/-! ### Which words decode, and to what (30_encoding.md R93 to R97) -/

theorem decodeOn_eq_ok_iff {p : PortId} {w : Word} {i : Instr} : decodeOn p w = .ok i ↔
    ∃ r ∈ opcodeMap, r.port = p ∧ w &&& r.mask = r.pattern ∧ r.read w = i ∧
      i.wellFormed = true := by
  constructor
  · intro h
    obtain ⟨r, hrow, hr⟩ := decodeOn_eq_ok h
    exact ⟨r, (rowOf_port hrow).1, hr⟩
  · rintro ⟨r, hr, hport, hw, rfl, hwf⟩
    have hrow : rowOf (opOf w) = some r := by rw [opOf_of_match hr hw, rowOf_op r hr]
    simp only [decodeOn, hrow, Row.decode, if_pos hport, if_pos hw, if_pos hwf]

/-- Settles O1: the word matches the row of its opcode, which reads the operands back. -/
theorem decodeOfEncodeIsTheCommand : Obligations.DecodeOfEncodeIsTheCommand := by
  intro i hi
  obtain ⟨r, hrow, hport, hw⟩ := encodedRow i
  exact ⟨decodeOn_eq_ok_iff.mpr ⟨r, (rowOf_port hrow).1, hport, hw, read_encode hrow, hi⟩,
    decodeWord_encode hi⟩

/-- Settles O2: the free bits are the operands, and the others are those of the row's pattern. -/
theorem encodeOfDecodeIsTheWord : Obligations.EncodeOfDecodeIsTheWord := by
  intro p w i h
  obtain ⟨r, hr, hport, hw, rfl, hwf⟩ := decodeOn_eq_ok_iff.mp h
  exact ⟨encode_read_of_match hr hw, Machine.port_of_decodeOn h, hwf⟩

/-- Settles O3: a match fixes the opcode, hence the row, and only CFGW has a check left. -/
theorem legalWordsAreTheTableRows : Obligations.LegalWordsAreTheTableRows := by
  intro p w
  constructor
  · rintro ⟨i, h⟩
    obtain ⟨r, hr, hport, hw, rfl, hwf⟩ := decodeOn_eq_ok_iff.mp h
    exact ⟨r, hr, hport, hw, (wellFormed_read_iff w r hr).mp hwf⟩
  · rintro ⟨r, hr, hport, hw, hreg⟩
    exact ⟨r.read w, decodeOn_eq_ok_iff.mpr
      ⟨r, hr, hport, hw, rfl, (wellFormed_read_iff w r hr).mpr hreg⟩⟩

/-- Settles O4, by evaluating the decoder. -/
theorem workedEncodingsDecode : Obligations.WorkedEncodingsDecode := by
  unfold Obligations.WorkedEncodingsDecode
  decide

end Sys2Proof
end

section
/-! A word that stands for no command (30_encoding.md R95, R96; 60_exceptions.md R217). -/

namespace Sys2Proof.Machine

theorem raisesOnly_accept (s : State) (c : Cause) (p : PortId) :
    RaisesOnly s ((s.raise c).accept p) c p := by
  have haccepted : Accepted s ((s.raise c).accept p) p := by
    refine ⟨?_, fun q hq => ?_⟩
    · rw [State.port_accept_same]; cases p <;> rfl
    · rw [State.port_accept_other _ hq]; cases q <;> rfl
  refine ⟨?_, fun n hn => ?_, haccepted, by cases p <;> rfl⟩
  · rw [State.err, State.flag_accept]; exact (State.err_raise s c c).trans (by simp)
  · rw [State.flag_accept, State.flag_raise]; simp [hn]

theorem portStep_of_decodeOn_ne_ok {p : PortId} {s : State} {w : Word}
    (hw : s.presented p = some w) (h : ∀ i, decodeOn p w ≠ .ok i) :
    portStep p s = s.reject .ill p := by
  cases hdec : decodeOn p w with
  | ok i => exact absurd hdec (h i)
  | error e => simp only [portStep, hw, hdec]

/-- Settles O8: a legal word matches the one row of its opcode, and each case of the premise
contradicts what that row asks. -/
theorem illegalWordOnlyRaisesIll : Obligations.IllegalWordOnlyRaisesIll := by
  intro s p w hturn hpresented hillegal
  have hnone (i : Instr) : decodeOn p w ≠ .ok i := by
    intro h
    obtain ⟨r, hr, hport, hw, hreg⟩ := (legalWordsAreTheTableRows p w).mp ⟨i, h⟩
    have hop := opOf_of_match hr hw
    rcases hillegal with hother | ⟨q, hq, hqop, -, hne⟩ | ⟨-, hcfgw, hge⟩
    · exact hother r hr hop.symm hport
    · have hqr : q = r := Option.some.inj <| by rw [← rowOf_op q hq, hqop, hop, rowOf_op r hr]
      exact hne (hqr ▸ hw)
    · have := hreg (hop.symm.trans hcfgw)
      omega
  refine ⟨_, ?_, raisesOnly_accept s.passTurn .ill p⟩
  rw [step, hturn, runTurn_turn,
    portStep_of_decodeOn_ne_ok (by rwa [presented_passTurn]) hnone, State.reject]

end Sys2Proof.Machine
end

section
/-! The configuration registers by number (10_state.md R21; 40_config.md R122): the legal set of each, and
what a read returns after a write. -/

namespace Sys2Proof.Machine

/-! ### Legal values -/

theorem extractLsb'_zero_three_eq_zero_iff {w : Nat} (v : BitVec w) :
    v.extractLsb' 0 3 = 0 ↔ v.toNat % 8 = 0 := by
  rw [← BitVec.toNat_inj, BitVec.extractLsb'_toNat, Nat.shiftRight_zero]
  rfl

theorem legalCfg_log2n (b : Build) (v : BitVec 32) :
    legalCfg b 0 v = true ↔ 2 ≤ v.toNat ∧ v.toNat ≤ b.log2nMax := decide_eq_true_iff

theorem legalCfg_pixelSize (b : Build) (v : BitVec 32) :
    legalCfg b 1 v = true ↔ 1 ≤ v.toNat ∧ v.toNat ≤ b.rowsMax := decide_eq_true_iff

theorem legalCfg_curveCount (b : Build) (v : BitVec 32) :
    legalCfg b 2 v = true ↔ v.toNat ≤ 65528 ∧ v.extractLsb' 0 3 = 0 := by
  rw [extractLsb'_zero_three_eq_zero_iff]
  exact decide_eq_true_iff

theorem legalCfg_iterCount (b : Build) (v : BitVec 32) :
    legalCfg b 3 v = true ↔ v.toNat ≤ 512 := decide_eq_true_iff

theorem legalCfg_redShift (b : Build) (v : BitVec 32) :
    legalCfg b 4 v = true ↔ v.toNat ≤ 14 := decide_eq_true_iff

/-- The binary32 registers take any pattern, NaN and infinity among them. -/
theorem legalCfg_of_five_le (b : Build) {reg : BitVec 4} (v : BitVec 32) (hreg : 5 ≤ reg.toNat) :
    legalCfg b reg v = true := by
  unfold legalCfg
  generalize reg.toNat = n at hreg
  match n with
  | _ + 5 => rfl

/-! ### A read after a write -/

/-- A value below `2 ^ n` is kept whole by a register of `n` bits. -/
theorem setWidth_setWidth_of_lt {n : Nat} {v : BitVec 32} (hv : v.toNat < 2 ^ n) :
    (v.setWidth n).setWidth 32 = v := by
  apply BitVec.eq_of_toNat_eq
  rw [BitVec.toNat_setWidth, BitVec.toNat_setWidth, Nat.mod_eq_of_lt hv, Nat.mod_eq_of_lt v.isLt]

/-- A legal value is below two to the width of its register, so the register reads the whole value. -/
theorem CfgRegs.read_write_same {b : Build} (c : CfgRegs) {reg : BitVec 4} {value : BitVec 32}
    (hreg : reg.toNat ≤ 11) (hvalue : legalCfg b reg value = true) :
    (c.write reg value).read reg.toNat = value := by
  have hlog2nMax := b.log2nMax.isLt
  have hrowsMax := b.rowsMax.isLt
  unfold legalCfg at hvalue
  unfold CfgRegs.write
  generalize reg.toNat = n at *
  match n with
  | 0 =>
    have hlegal := (legalCfg_log2n b value).mp hvalue
    exact setWidth_setWidth_of_lt (by omega)
  | 1 =>
    have hlegal := (legalCfg_pixelSize b value).mp hvalue
    exact setWidth_setWidth_of_lt (by omega)
  | 2 =>
    have hlegal := (legalCfg_curveCount b value).mp hvalue
    exact setWidth_setWidth_of_lt (by omega)
  | 3 =>
    have hlegal := (legalCfg_iterCount b value).mp hvalue
    exact setWidth_setWidth_of_lt (by omega)
  | 4 =>
    have hlegal := (legalCfg_redShift b value).mp hvalue
    exact setWidth_setWidth_of_lt (by omega)
  | 5 | 6 | 7 | 8 | 9 | 10 | 11 => rfl
  | _ + 12 => omega

/-- Case by case of the register read: only a write to that number sees its field. -/
theorem CfgRegs.read_write_other (c : CfgRegs) {reg : BitVec 4} (value : BitVec 32) {n : Nat}
    (hn : n ≠ reg.toNat) : (c.write reg value).read n = c.read n := by
  match n with
  | 0 | 1 | 2 | 3 | 4 | 5 | 6 | 7 | 8 | 9 | 10 | 11 =>
    unfold CfgRegs.write
    generalize reg.toNat = k at hn
    split <;> trivial
  | _ + 12 => rfl

end Sys2Proof.Machine
end

section
/-! The configuration and status commands (40_config.md): what each answers in every case of its tests. -/

namespace Sys2Proof.Machine

/-! ### Acceptance and refusal -/

/-- Accepting after an update that leaves the ports alone accepts the command of the start state. -/
theorem accepted_accept {s u : State} (hH : u.portH = s.portH) (hS : u.portS = s.portS) (p : PortId) :
    Accepted s (u.accept p) p := by
  refine ⟨?_, fun q hq => ?_⟩
  · rw [State.port_accept_same, State.port_congr hH hS]
  · rw [State.port_accept_other u hq, State.port_congr hH hS]

theorem raises_of_exec_eq_reject {i : Instr} {s : State} {c : Cause}
    (h : exec i s = s.reject c i.port) : Raises i s c :=
  ⟨_, h, raisesOnly_accept s c i.port⟩

/-- A CFG-mode command of port H raises STATE in RUN mode, whatever it would do (30_encoding.md R97,
test 3). -/
theorem raises_state_of_run {i : Instr} {s : State} {effect : Out} (hport : i.port = .h)
    (h : exec i s = s.inMode .cfg effect) (hrun : s.mode = .run) : Raises i s .state :=
  raises_of_exec_eq_reject (by rw [h, hport, inMode_other effect (by simp [hrun])])

/-! ### CFGW (40_config.md R122) -/

theorem exec_cfgw_of_reserved {reg : BitVec 4} (value : BitVec 32) (s : State)
    (hreg : 12 ≤ reg.toNat) : exec (.cfgw reg value) s = s.reject .ill .h :=
  if_pos hreg

theorem exec_cfgw_of_le {reg : BitVec 4} (value : BitVec 32) (s : State) (hreg : reg.toNat ≤ 11) :
    exec (.cfgw reg value) s = s.inMode .cfg (if legalCfg s.build reg value then
      .next (({ s with cfg := s.cfg.write reg value } : State).accept .h) else s.reject .range .h) :=
  if_neg (Nat.not_lt.mpr hreg)

/-- Settles O12: the refusals follow the tests of `execCfgw` in order, and the legal sets are those of the
registers' lemmas. -/
theorem cfgwLegalSetsAndRefusals : Obligations.CfgwLegalSetsAndRefusals := by
  refine ⟨fun s reg value => ⟨fun hreg => ?_, fun hreg hrun => ?_, fun hreg hcfg hillegal => ?_⟩,
    fun b v => ⟨legalCfg_log2n b v, legalCfg_pixelSize b v, legalCfg_curveCount b v,
      legalCfg_iterCount b v, legalCfg_redShift b v, fun _ hreg _ => legalCfg_of_five_le b v hreg⟩⟩
  · exact raises_of_exec_eq_reject (exec_cfgw_of_reserved value s hreg)
  · exact raises_state_of_run rfl (exec_cfgw_of_le value s hreg) hrun
  · refine raises_of_exec_eq_reject ?_
    rw [exec_cfgw_of_le value s hreg, inMode_same _ hcfg, hillegal]
    rfl

/-- Settles O11: a register reads what was written to it, and no other number sees the write. -/
theorem cfgwWritesItsRegister : Obligations.CfgwWritesItsRegister := by
  intro s reg value hcfg hreg hlegal
  refine ⟨({ s with cfg := s.cfg.write reg value } : State).accept .h, ?_,
    CfgRegs.read_write_same s.cfg hreg hlegal, fun n hn => CfgRegs.read_write_other s.cfg value hn,
    accepted_accept rfl rfl .h, rfl⟩
  rw [exec_cfgw_of_le value s hreg, inMode_same _ hcfg, if_pos hlegal]

/-! ### LUTW and CAPW (40_config.md R123, R124) -/

theorem exec_lutw_of_le {s : State} {idx : BitVec 17} (value : F32) (hcfg : s.mode = .cfg)
    (hidx : s.build.lutDepth ≤ idx.toNat) : exec (.lutw idx value) s = s.reject .range .h :=
  (inMode_same _ hcfg).trans (if_pos hidx)

theorem exec_lutw_of_lt {s : State} {idx : BitVec 17} (value : F32) (hcfg : s.mode = .cfg)
    (hidx : idx.toNat < s.build.lutDepth) : exec (.lutw idx value) s =
      .next ((s.setMem { s.mem with lut := cellsPut s.mem.lut idx.toNat value }).accept .h) := by
  refine (inMode_same _ hcfg).trans ?_
  rw [if_neg (Nat.not_le.mpr hidx), State.writeLut, if_pos hidx, orFault_ok]

theorem exec_capw_of_outside {s : State} {row : BitVec 10} {cap : BitVec 11} (hcfg : s.mode = .cfg)
    (hout : (s.build.rowsMax : Nat) ≤ row.toNat ∨ (s.build.capMax : Nat) < cap.toNat) :
    exec (.capw row cap) s = s.reject .range .h :=
  (inMode_same _ hcfg).trans (if_pos hout)

theorem exec_capw_of_inside {s : State} {row : BitVec 10} {cap : BitVec 11} (hcfg : s.mode = .cfg)
    (hrow : row.toNat < s.build.rowsMax) (hcap : cap.toNat ≤ s.build.capMax) :
    exec (.capw row cap) s =
      .next ((s.setMem { s.mem with cap := cellsPutZ s.mem.cap row.toNat cap }).accept .h) := by
  refine (inMode_same _ hcfg).trans ?_
  rw [if_neg (by omega), State.writeCap, if_pos hrow, orFault_ok]

/-- Settles O13: a read of the LUT after a write, at the index written and at every other. -/
theorem lutwWritesItsElement : Obligations.LutwWritesItsElement := by
  intro s idx value hcfg hidx
  refine ⟨_, exec_lutw_of_lt value hcfg hidx, ?_, fun k hk => ?_, accepted_accept rfl rfl .h, rfl⟩
  · simp [State.lutVal]
  · simp [State.lutVal, cellsGet?_put_other _ _ hk]

/-- Settles O14: a read of CAP after a write, at the row written and at every other. -/
theorem capwWritesItsCapacity : Obligations.CapwWritesItsCapacity := by
  intro s row cap hcfg hrow hcap
  refine ⟨_, exec_capw_of_inside hcfg hrow hcap, ?_, fun r hr => ?_, accepted_accept rfl rfl .h, rfl⟩
  · simp [State.capVal]
  · simp [State.capVal, cellsGetZ_putZ_other _ _ hr]

/-- Settles O15: the mode test comes first, and in CFG mode the range test refuses. -/
theorem lutwAndCapwRefusals : Obligations.LutwAndCapwRefusals := by
  refine fun s idx value row cap =>
    ⟨fun hrun => ⟨?_, ?_⟩, fun hcfg hidx => ?_, fun hcfg hout => ?_⟩
  · exact raises_state_of_run rfl rfl hrun
  · exact raises_state_of_run rfl rfl hrun
  · exact raises_of_exec_eq_reject (exec_lutw_of_le value hcfg hidx)
  · exact raises_of_exec_eq_reject (exec_capw_of_outside hcfg hout)

/-! ### LOCK, NOP and STAT (40_config.md R121, R125, R126) -/

/-- Settles O16: LOCK sets the one bit MODE, which is STATUS bit 0. -/
theorem lockEntersRunMode : Obligations.LockEntersRunMode := by
  refine fun s => ⟨fun hcfg => ⟨(s.setFlag modeBit true).accept .h, inMode_same _ hcfg, ?_,
    fun n hn => ?_, accepted_accept rfl rfl .h, rfl⟩, fun hrun => raises_state_of_run rfl rfl hrun⟩
  · rw [State.mode_accept, State.mode_eq_run_iff, State.flag_setFlag_same s true (by decide)]
  · rw [State.flag_accept, State.flag_setFlag_other (n := modeBit) s true hn]

/-- Settles O10: NOP has no test, and accepting moves port H's command pointer only. -/
theorem nopOnlyAdvancesThePort : Obligations.NopOnlyAdvancesThePort := fun s =>
  ⟨s.accept .h, rfl, accepted_accept rfl rfl .h, rfl⟩

/-- Settles O17: STAT has no test, and its response is STATUS as it stands before the step. -/
theorem statRespondsStatus : Obligations.StatRespondsStatus := fun s =>
  ⟨(s.respondH [s.status]).accept .h, rfl, rfl, accepted_accept rfl rfl .h, rfl⟩

end Sys2Proof.Machine
end

section
/-! Rounding keeps order (00_scope.md R8): a sum of binary32 values does not fall when an operand rises. -/

namespace Sys2Proof.Machine

/-- The nearest pattern does not fall when the value rises: of two patterns the lower one is the nearer
below their middle, and the higher one above it. -/
theorem roundMag_mono {m n : Nat} (d : Nat) (hmn : m ≤ n) : roundMag m d ≤ roundMag n d := by
  by_contra hfall
  have hval : patternUnits (roundMag n d) * 2 ^ d < patternUnits (roundMag m d) * 2 ^ d :=
    Nat.mul_lt_mul_of_pos_right (patternUnits_strictMono (not_le.mp hfall)) (Nat.two_pow_pos d)
  obtain ⟨hm, -⟩ := roundMag_nearest m d (roundMag n d)
  obtain ⟨hn, -⟩ := roundMag_nearest n d (roundMag m d)
  have hne : m ≠ n := by rintro rfl; exact hfall le_rfl
  simp only [patternError] at hm hn
  omega

/-- What is monotone on magnitudes is monotone under the signs. -/
theorem signedMag_mono {f : Nat → Nat} (hf : Monotone f) {x y : Int} (hxy : x ≤ y) :
    signedMag (decide (x < 0)) (f x.natAbs) ≤ signedMag (decide (y < 0)) (f y.natAbs) := by
  rcases lt_or_ge x 0 with hx | hx <;> rcases lt_or_ge y 0 with hy | hy
  · have hmag := hf (show y.natAbs ≤ x.natAbs by omega)
    simpa [hx, hy] using hmag
  · simp only [hx, hy.not_gt, decide_true, decide_false, signedMag_true, signedMag_false]
    omega
  · omega
  · have hmag := hf (show x.natAbs ≤ y.natAbs by omega)
    simpa [hx.not_gt, hy.not_gt] using hmag

/-- The magnitude pattern nearest to `m` units, within the format. -/
def boundedMag (m : Nat) : Nat := min (roundMag m 0) infPattern

theorem boundedMag_mono : Monotone boundedMag := fun _ _ hmn =>
  min_le_min_right _ (roundMag_mono 0 hmn)

/-- The place, in the order of the values, of the value nearest to `x` units. -/
def roundOrder (x : Int) : Int := signedMag (decide (x < 0)) (boundedMag x.natAbs)

theorem roundOrder_mono {x y : Int} (hxy : x ≤ y) : roundOrder x ≤ roundOrder y :=
  signedMag_mono boundedMag_mono hxy

theorem min_infPattern_lt (p : Nat) : min p infPattern < 2 ^ 31 :=
  (min_le_right _ _).trans_lt (by decide)

theorem forder_packRound (neg : Bool) (m d : Nat) :
    forder (packRound neg m d) = signedMag neg (min (roundMag m d) infPattern) := by
  rw [packRound_eq, forder_eq, fneg_ofSignPattern neg (min_infPattern_lt _),
    magPattern_ofSignPattern neg (min_infPattern_lt _)]

theorem isNaN_packRound (neg : Bool) (m d : Nat) : isNaN (packRound neg m d) = false := by
  rw [← Bool.not_eq_true, isNaN_iff, packRound_eq, magPattern_ofSignPattern neg (min_infPattern_lt _)]
  omega

theorem isNaN_fadd {a b : F32} (ha : isFinite a = true) (hb : isFinite b = true) :
    isNaN (fadd a b) = false := by
  rw [fadd_of_isFinite ha hb, isNaN_packRound]

/-- The sign of an exact 0 does not count: the zeros are equal. -/
theorem forder_fadd {a b : F32} (ha : isFinite a = true) (hb : isFinite b = true) :
    forder (fadd a b) = roundOrder (units a + units b) := by
  rw [fadd_of_isFinite ha hb, forder_packRound, roundOrder, ← boundedMag]
  split
  next hzero =>
    have hmag : boundedMag (0 : Int).natAbs = 0 := by decide
    rw [hzero, hmag]
    simp [signedMag]
  next => rfl

theorem forder_fadd_mono {a b c d : F32} (ha : isFinite a = true) (hb : isFinite b = true)
    (hc : isFinite c = true) (hd : isFinite d = true) (hac : forder a ≤ forder c)
    (hbd : forder b ≤ forder d) : forder (fadd a b) ≤ forder (fadd c d) := by
  rw [← units_le_units_iff] at hac hbd
  rw [forder_fadd ha hb, forder_fadd hc hd]
  exact roundOrder_mono (by omega)

/-! ### Sums between bounds -/

theorem isFinite_u2f {n : Nat} (hn : n < 2 ^ 24) : isFinite (u2f n) = true := by
  obtain ⟨p, hp, hu2f, -⟩ := u2f_eq hn
  rw [hu2f, isFinite_iff, magPattern_ofSignPattern _ (hp.trans (by decide))]
  exact hp

theorem isFinite_of_between {a lo hi : F32} (hlo : isFinite lo = true) (hhi : isFinite hi = true)
    (hloa : forder lo ≤ forder a) (hahi : forder a ≤ forder hi) : isFinite a = true := by
  obtain ⟨hlow, -⟩ := forder_between hlo
  obtain ⟨-, hhigh⟩ := forder_between hhi
  have habove := hlow.trans_le hloa
  have hbelow := hahi.trans_lt hhigh
  rw [isFinite_iff]
  rw [forder_eq] at habove hbelow
  cases hneg : fneg a <;> simp only [hneg, signedMag_true, signedMag_false] at habove hbelow <;> omega

/-- Only an infinity is neither finite nor a NaN, and its double is itself. -/
theorem fadd_self_of_not_isFinite {a : F32} (hnan : isNaN a = false) (hfin : ¬ isFinite a = true) :
    fadd a a = a := by
  have hinf : isInf a = true := by
    rw [← Bool.not_eq_true, isNaN_iff] at hnan
    rw [isFinite_iff] at hfin
    rw [isInf_iff]
    omega
  simp [fadd, hnan, hinf]

/-- A lower bound of a finite value is finite, if its double is at least 0. -/
theorem isFinite_of_lower {a lo : F32} (ha : isFinite a = true) (hle : fge a lo = true)
    (hlo : fge (fadd lo lo) 0 = true) : isFinite lo = true := by
  obtain ⟨-, hnan, hle⟩ := (fge_iff _ _).mp hle
  by_contra hfin
  rw [fadd_self_of_not_isFinite hnan hfin] at hlo
  obtain ⟨-, -, hlo⟩ := (fge_iff _ _).mp hlo
  exact hfin (isFinite_of_between (by decide) ha hlo hle)

/-- An upper bound of a finite value is finite, if its double is below a finite value. -/
theorem isFinite_of_upper {a hi size : F32} (ha : isFinite a = true) (hle : fge hi a = true)
    (hsize : isFinite size = true) (hhi : flt (fadd hi hi) size = true) : isFinite hi = true := by
  obtain ⟨hnan, -, hle⟩ := (fge_iff _ _).mp hle
  by_contra hfin
  rw [fadd_self_of_not_isFinite hnan hfin] at hhi
  obtain ⟨-, -, hhi⟩ := (flt_iff _ _).mp hhi
  exact hfin (isFinite_of_between ha hsize hle hhi.le)

/-- `v` is a finite value between the bounds. -/
structure Bounded (lo hi v : F32) : Prop where
  finite : isFinite v = true
  lower : fge v lo = true
  upper : fge hi v = true

/-- A sum of two values between bounds lies below `size` and not below 0 when the doubled bounds do. -/
theorem Bounded.fadd_between {a b lo hi size : F32} (ha : Bounded lo hi a) (hb : Bounded lo hi b)
    (hsize : isFinite size = true) (hlo : fge (fadd lo lo) 0 = true)
    (hhi : flt (fadd hi hi) size = true) :
    fge (fadd a b) 0 = true ∧ flt (fadd a b) size = true := by
  have hlofin := isFinite_of_lower ha.finite ha.lower hlo
  have hhifin := isFinite_of_upper ha.finite ha.upper hsize hhi
  obtain ⟨-, -, hloa⟩ := (fge_iff _ _).mp ha.lower
  obtain ⟨-, -, hlob⟩ := (fge_iff _ _).mp hb.lower
  obtain ⟨-, -, hahi⟩ := (fge_iff _ _).mp ha.upper
  obtain ⟨-, -, hbhi⟩ := (fge_iff _ _).mp hb.upper
  obtain ⟨-, hzero, hlow⟩ := (fge_iff _ _).mp hlo
  obtain ⟨-, hnan, hhigh⟩ := (flt_iff _ _).mp hhi
  have hsum := isNaN_fadd ha.finite hb.finite
  rw [fge_iff, flt_iff]
  exact ⟨⟨hsum, hzero, hlow.trans (forder_fadd_mono hlofin hlofin ha.finite hb.finite hloa hlob)⟩,
    hsum, hnan, (forder_fadd_mono ha.finite hb.finite hhifin hhifin hahi hbhi).trans_lt hhigh⟩

end Sys2Proof.Machine
end

section
/-! Whole numbers and their halves in binary32 (00_scope.md R8), and so the centre of the grid (10_state.md
R30). -/

namespace Sys2Proof.Machine

/-- A whole number below 2^24 has no bit below the last place, at any scale from 2^d on. -/
theorem roundShift_mul_two_pow_le {n : Nat} (hn : n < 2 ^ 24) (k d : Nat) :
    roundShift (n * 2 ^ (k + d)) d ≤ k + d := by
  have hlog : (n * 2 ^ (k + d)).log2 ≤ 23 + (k + d) := by
    rcases Nat.eq_zero_or_pos n with rfl | hpos
    · rw [Nat.zero_mul, Nat.log2_zero]; exact Nat.zero_le _
    · have hlt : n * 2 ^ (k + d) < 2 ^ (24 + (k + d)) := by
        rw [Nat.pow_add 2 24]
        exact Nat.mul_lt_mul_of_pos_right hn (Nat.two_pow_pos _)
      have := (Nat.log2_lt (Nat.mul_pos hpos (Nat.two_pow_pos _)).ne').mpr hlt
      omega
  exact max_le (by omega) (Nat.le_add_left _ _)

/-- So it is rounded without loss. -/
theorem patternUnits_roundMag_mul_two_pow {n : Nat} (hn : n < 2 ^ 24) (k d : Nat) :
    patternUnits (roundMag (n * 2 ^ (k + d)) d) = n * 2 ^ k := by
  have hdvd : 2 ^ roundShift (n * 2 ^ (k + d)) d ∣ n * 2 ^ (k + d) :=
    (Nat.pow_dvd_pow 2 (roundShift_mul_two_pow_le hn k d)).trans (Nat.dvd_mul_left _ _)
  refine Nat.eq_of_mul_eq_mul_right (Nat.two_pow_pos d) ?_
  rw [patternUnits_roundMag_of_dvd hdvd, Nat.pow_add, Nat.mul_assoc]

theorem mul_two_pow_mul_two_pow (n k d : Nat) : n * 2 ^ d * 2 ^ k = n * 2 ^ (k + d) := by
  rw [Nat.pow_add, Nat.mul_assoc, Nat.mul_comm (2 ^ d)]

theorem magUnits_u2f {n : Nat} (hn : n < 2 ^ 24) : magUnits (u2f n) = n * 2 ^ 149 := by
  rw [← natAbs_units, units_u2f hn]
  rfl

/-- One half, as a binary32 value (10_state.md R30). -/
def half : F32 := 0x3F000000

theorem magUnits_half : magUnits half = 2 ^ 148 := by decide

/-- Half of a whole number is exact (00_scope.md R8). -/
theorem fmul_u2f_half {n : Nat} (hn : n < 2 ^ 24) :
    ∃ p < infPattern, fmul (u2f n) half = ofSignPattern false p ∧ patternUnits p = n * 2 ^ 148 := by
  obtain ⟨q, hq, hu2f, -⟩ := u2f_eq hn
  have hneg : fneg (u2f n) = false := by
    rw [hu2f, fneg_ofSignPattern false (hq.trans (by decide))]
  have hval := patternUnits_roundMag_mul_two_pow hn 148 149
  have hfin : roundMag (n * 2 ^ (148 + 149)) 149 < infPattern := by
    rw [← patternUnits_strictMono.lt_iff_lt, hval]
    exact (Nat.mul_lt_mul_of_pos_right hn (Nat.two_pow_pos 148)).trans (by decide)
  refine ⟨_, hfin, ?_, hval⟩
  rw [fmul_of_isFinite (isFinite_u2f hn) (by decide), hneg, magUnits_u2f hn, magUnits_half,
    mul_two_pow_mul_two_pow, packRound_eq, Nat.min_eq_left hfin.le]
  rfl

theorem centre_eq (c : CfgRegs) : isFinite c.centre = true ∧
    2 * units c.centre = c.pixelSize.toNat * 2 ^ 149 := by
  obtain ⟨p, hp, hcentre, hval⟩ := fmul_u2f_half (c.pixelSize.isLt.trans (by decide))
  have hp31 : p < 2 ^ 31 := hp.trans (by decide)
  have hunits : units (ofSignPattern false p) = (patternUnits p : Int) := by
    rw [units_eq, magUnits_eq, fneg_ofSignPattern false hp31, magPattern_ofSignPattern false hp31]
    rfl
  rw [CfgRegs.centre, ← half, hcentre, hunits, hval, isFinite_iff, magPattern_ofSignPattern false hp31]
  refine ⟨hp, ?_⟩
  push_cast
  ring

end Sys2Proof.Machine
end

section
/-! A lane's turn (41_mapper.md R142): the iteration step and the end-of-curve step as functions of the
state, and what each does to the lane's registers and to STATUS. -/

namespace Sys2Proof.Machine

@[simp] theorem State.lane_setFlag (s : State) (n : Nat) (b : Bool) (h : LaneId) :
    (s.setFlag n b).lane h = s.lane h := State.lane_congr rfl rfl h

@[simp] theorem State.lane_accept (s : State) (p : PortId) (h : LaneId) :
    (s.accept p).lane h = s.lane h := State.lane_congr (by simp) (by simp) h

/-! ### Iteration steps (41_mapper.md R143) -/

theorem getLsbD_twoPow_bit (c : Cause) (n : Nat) :
    (BitVec.twoPow 32 c.bit).getLsbD n = decide (n = c.bit) := by
  have hbit : c.bit < 32 := by cases c <;> decide
  rw [BitVec.getLsbD_twoPow, decide_eq_true hbit, Bool.true_and]
  exact decide_eq_decide.mpr eq_comm

theorem getLsbD_numBits (ovf : Bool) (n : Nat) :
    (numBits ovf).getLsbD n = (ovf && decide (n = Cause.num.bit)) := by
  cases ovf
  · exact BitVec.getLsbD_zero
  · exact getLsbD_twoPow_bit .num n

theorem getLsbD_rangeBits (inGrid : Bool) (n : Nat) :
    (rangeBits inGrid).getLsbD n = (!inGrid && decide (n = Cause.range.bit)) := by
  cases inGrid
  · exact getLsbD_twoPow_bit .range n
  · exact BitVec.getLsbD_zero

section Sampled

variable (s : State) (h : LaneId) (p : Sample)

/-- An iteration step raises NUM and RANGE, and touches no other bit of STATUS. -/
theorem flag_sampled (n : Nat) : (s.sampled h p).flag n = (s.flag n ||
    ((s.cfg.indices (s.lane h)).2.2 && decide (n = Cause.num.bit) ||
      !s.cfg.inGrid p && decide (n = Cause.range.bit))) := by
  rw [State.sampled, State.flag_setLane, State.flag_setMem, State.flag, State.raiseBits,
    BitVec.getLsbD_or, CfgRegs.sampleErrors, BitVec.getLsbD_or, getLsbD_numBits, getLsbD_rangeBits]
  rfl

theorem flag_sampled_other {n : Nat} (hnum : n ≠ Cause.num.bit) (hrange : n ≠ Cause.range.bit) :
    (s.sampled h p).flag n = s.flag n := by
  simp [flag_sampled, hnum, hrange]

theorem err_num_sampled :
    (s.sampled h p).err .num = (s.err .num || (s.cfg.indices (s.lane h)).2.2) := by
  simp [State.err, flag_sampled, Cause.bit_inj]

theorem err_range_sampled : (s.sampled h p).err .range = (s.err .range || !s.cfg.inGrid p) := by
  simp [State.err, flag_sampled, Cause.bit_inj]

@[simp] theorem busy_sampled (g : LaneId) : (s.sampled h p).busy g = s.busy g :=
  flag_sampled_other s h p (by cases g <;> decide) (by cases g <;> decide)

@[simp] theorem lane_sampled_same : (s.sampled h p).lane h = (s.lane h).iterated p :=
  State.lane_setLane_same _ _ _

theorem lane_sampled_other {g : LaneId} (hne : g ≠ h) : (s.sampled h p).lane g = s.lane g := by
  rw [State.sampled, State.lane_setLane_other _ _ hne]
  exact State.lane_congr rfl rfl g

theorem sampled_frame : s.sampled h p = { s with
    lane0 := (s.sampled h p).lane0, lane1 := (s.sampled h p).lane1,
    status := (s.sampled h p).status, mem := (s.sampled h p).mem } := by
  cases h <;> rfl

end Sampled

/-! ### End-of-curve steps (41_mapper.md R148) -/

/-- The state after an end-of-curve step of lane `h`. -/
def State.curveEnded (s : State) (h : LaneId) : State :=
  if s.cfg.lastCurve h (s.lane h) then
    (s.setLane h (s.cfg.nextCurve (s.lane h))).setFlag (busyBit h) false
  else s.setLane h (s.cfg.nextCurve (s.lane h))

theorem busyBit_lt (h : LaneId) : busyBit h < 32 := by cases h <;> decide

section CurveEnded

variable (s : State) (h : LaneId)

@[simp] theorem curveEnded_cfg : (s.curveEnded h).cfg = s.cfg := by
  unfold State.curveEnded; split <;> simp

@[simp] theorem lane_curveEnded_same : (s.curveEnded h).lane h = s.cfg.nextCurve (s.lane h) := by
  unfold State.curveEnded
  split <;> simp

theorem lane_curveEnded_other {g : LaneId} (hne : g ≠ h) :
    (s.curveEnded h).lane g = s.lane g := by
  unfold State.curveEnded
  split <;> simp [State.lane_setLane_other _ _ hne]

/-- The lane goes on unless the curve was its last. -/
theorem busy_curveEnded :
    (s.curveEnded h).busy h = (s.busy h && !s.cfg.lastCurve h (s.lane h)) := by
  unfold State.curveEnded
  split
  next hlast => rw [State.busy, State.flag_setFlag_same _ _ (busyBit_lt h), hlast]; simp
  next hlast => simp [hlast]

theorem flag_curveEnded_other {n : Nat} (hn : n ≠ busyBit h) :
    (s.curveEnded h).flag n = s.flag n := by
  unfold State.curveEnded
  split
  · rw [State.flag_setFlag_other _ _ hn, State.flag_setLane]
  · rw [State.flag_setLane]

theorem setLane_setFlag_frame (r : LaneRegs) (n : Nat) (b : Bool) :
    (s.setLane h r).setFlag n b = { s with
      lane0 := ((s.setLane h r).setFlag n b).lane0, lane1 := ((s.setLane h r).setFlag n b).lane1,
      status := ((s.setLane h r).setFlag n b).status } := by
  cases h <;> rfl

theorem setLane_frame (r : LaneRegs) : s.setLane h r = { s with
    lane0 := (s.setLane h r).lane0, lane1 := (s.setLane h r).lane1,
    status := (s.setLane h r).status } := by
  cases h <;> rfl

theorem curveEnded_frame : s.curveEnded h = { s with
    lane0 := (s.curveEnded h).lane0, lane1 := (s.curveEnded h).lane1,
    status := (s.curveEnded h).status } := by
  unfold State.curveEnded
  split
  · exact setLane_setFlag_frame s h _ _ _
  · exact setLane_frame s h _

end CurveEnded

/-! ### The turn -/

theorem laneStep_of_idle {s : State} {h : LaneId} (hidle : s.busy h = false) :
    laneStep h s = .next s := by
  rw [laneStep, hidle]; rfl

theorem laneStep_of_curveEnd {s : State} {h : LaneId} (hbusy : s.busy h = true)
    (hj : s.cfg.iterCount.toNat ≤ (s.lane h).j.toNat) : laneStep h s = .next (s.curveEnded h) := by
  rw [laneStep, if_pos hbusy, if_neg (Nat.not_lt.mpr hj)]
  rfl

/-- What a lane's turn can be, as functions of the state and the sample. -/
inductive LaneTurn (h : LaneId) (s : State) : State → Prop
  | idle : s.busy h = false → LaneTurn h s s
  | iteration (p : Sample) : s.busy h = true → (s.lane h).j.toNat < s.cfg.iterCount.toNat →
      s.laneSample h = .ok p → LaneTurn h s (s.sampled h p)
  | curveEnd : s.busy h = true → s.cfg.iterCount.toNat ≤ (s.lane h).j.toNat →
      LaneTurn h s (s.curveEnded h)

theorem laneStep_turn {h : LaneId} {s t : State} (ht : laneStep h s = .next t) : LaneTurn h s t := by
  obtain ⟨hidle, rfl⟩ | ⟨hbusy, hj, hiter⟩ | ⟨hbusy, hj, -⟩ := laneStep_cases ht
  · exact .idle hidle
  · obtain ⟨p, hp, -⟩ := iterationStep_cases hiter
    rw [iterationStep_eq_sampled hp hiter]
    exact .iteration p hbusy hj hp
  · obtain rfl := Host.Outcome.next.inj (ht.symm.trans (laneStep_of_curveEnd hbusy hj))
    exact .curveEnd hbusy hj

/-- Settles O34: the same branch is taken, with the same sample or the same end of curve. -/
theorem laneStepIgnoresOtherAgents : Obligations.LaneStepIgnoresOtherAgents := by
  intro s u s' u' h hbuild hcfg hlut hepoch hlane hbusy
  have hsample := laneSample_congr hlane hcfg hbuild hlut hepoch
  refine ⟨hsample, fun hs hu => ?_⟩
  cases laneStep_turn hs with
  | idle hidle =>
    rw [laneStep_of_idle (hbusy.trans hidle)] at hu
    cases hu
    exact ⟨hlane, hbusy⟩
  | iteration p hrun hj hp =>
    rw [laneStep_eq_sampled (hbusy.trans hrun) (by rwa [hlane, hcfg]) (hsample.trans hp) hu]
    exact ⟨by rw [lane_sampled_same, lane_sampled_same, hlane],
      by rw [busy_sampled, busy_sampled, hbusy]⟩
  | curveEnd hrun hj =>
    rw [laneStep_of_curveEnd (hbusy.trans hrun) (by rwa [hlane, hcfg])] at hu
    cases hu
    exact ⟨by rw [lane_curveEnded_same, lane_curveEnded_same, hlane, hcfg],
      by rw [busy_curveEnded, busy_curveEnded, hlane, hcfg, hbusy]⟩

/-- Settles O29: the new registers are those of the next curve, and BUSY falls with the last one. -/
theorem endOfCurveStepAdvances : Obligations.EndOfCurveStepAdvances := by
  intro s h hbusy hj
  refine ⟨s.curveEnded h, laneStep_of_curveEnd hbusy hj.ge, lane_curveEnded_same s h,
    fun g hg => lane_curveEnded_other s h hg, ?_, fun n hn => flag_curveEnded_other s h hn,
    curveEnded_frame s h⟩
  rw [busy_curveEnded, hbusy, CfgRegs.lastCurve, Bool.true_and, ← decide_not]
  exact decide_eq_decide.mpr not_le

/-- Settles O7: each agent's turn is its clause of `runTurn`, on the state with the turn used up. -/
theorem otherTurnsAreLaneStepsIdleOrReset : Obligations.OtherTurnsAreLaneStepsIdleOrReset := by
  refine fun s => ⟨fun h hturn => ?_, fun h hturn hidle => ?_, fun p hturn hnone => ?_,
    fun hturn => ?_⟩
  · rw [step, hturn]; rfl
  · rw [step, hturn]; exact laneStep_of_idle (by rwa [State.busy_passTurn])
  · rw [step, hturn, runTurn_turn, portStep, presented_passTurn, hnone]
  · rw [step, hturn]; rfl

end Sys2Proof.Machine
end

section
/-! The steps a lane has left (41_mapper.md R149): counted exactly by its own steps, and untouched by every
turn but its own and the reset pin's. -/

namespace Sys2Proof.Machine

/-- `n + 1` curves are left to lane `h`, the one it is on included. -/
def CurvesLeft (s : State) (h : LaneId) (n : Nat) : Prop :=
  s.cfg.halfHi h = (s.lane h).i.toNat + 4 * (n + 1)

/-- A running lane is on a whole curve of its half (10_state.md R40). -/
theorem exists_curvesLeft {s : State} (hinv : Inv s) {h : LaneId} (hbusy : s.busy h = true) :
    ∃ n, CurvesLeft s h n := by
  obtain ⟨-, hhi4, -, -⟩ := halves_of_cfgLegal hinv.cfg h
  obtain ⟨hmod, -, hhi, -⟩ := hinv.lanes h hbusy
  exact ⟨(s.cfg.halfHi h - (s.lane h).i.toNat) / 4 - 1, by unfold CurvesLeft; omega⟩

theorem stepsLeft_of_idle {s : State} {h : LaneId} (hidle : s.busy h = false) :
    s.stepsLeft h = 0 := by
  simp [State.stepsLeft, hidle]

/-- Each curve behind the present one takes ITER_COUNT iterations and an end. -/
theorem stepsLeft_of_busy {s : State} {h : LaneId} {n : Nat} (hbusy : s.busy h = true)
    (hn : CurvesLeft s h n) (hj : (s.lane h).j.toNat ≤ s.cfg.iterCount.toNat) :
    s.stepsLeft h = n * (s.cfg.iterCount.toNat + 1) +
      (s.cfg.iterCount.toNat - (s.lane h).j.toNat) + 1 := by
  have hcurves : (s.cfg.halfHi h - (s.lane h).i.toNat) / 4 = n + 1 := by
    rw [CurvesLeft] at hn; omega
  rw [State.stepsLeft, if_pos hbusy, hcurves, Nat.succ_mul]
  omega

theorem busy_eq_false_iff_stepsLeft {s : State} (hinv : Inv s) (h : LaneId) :
    s.busy h = false ↔ s.stepsLeft h = 0 := by
  refine ⟨stepsLeft_of_idle, fun hzero => Bool.eq_false_iff.mpr fun hbusy => ?_⟩
  obtain ⟨n, hn⟩ := exists_curvesLeft hinv hbusy
  obtain ⟨-, -, -, hj⟩ := hinv.lanes h hbusy
  rw [stepsLeft_of_busy hbusy hn hj] at hzero
  omega

/-! ### GEN (41_mapper.md R141) -/

theorem exec_gen_of_idle {s : State} {h : LaneId} (time : F32) (hrun : s.mode = .run)
    (hidle : s.busy h = false) : exec (.gen h time) s =
      .next (((s.setLane h (s.cfg.laneStart h time)).setFlag (busyBit h)
        (decide (s.cfg.halfLo h < s.cfg.halfHi h))).accept .h) :=
  (inMode_same _ hrun).trans (if_neg (by simp [hidle]))

/-- What GEN leaves of the lane it starts. -/
theorem gen_lane_busy {s t : State} {h : LaneId} {time : F32} (hrun : s.mode = .run)
    (hidle : s.busy h = false) (ht : exec (.gen h time) s = .next t) :
    t.lane h = s.cfg.laneStart h time ∧ t.busy h = decide (s.cfg.halfLo h < s.cfg.halfHi h) ∧
      t.cfg = s.cfg := by
  rw [exec_gen_of_idle time hrun hidle] at ht
  cases ht
  refine ⟨by simp, ?_, by simp⟩
  rw [State.busy_accept, State.busy, State.flag_setFlag_same _ _ (busyBit_lt h)]

/-- The lower end of a half fits the register `i`. -/
theorem toNat_ofNat_halfLo (c : CfgRegs) (h : LaneId) :
    (BitVec.ofNat 16 (c.halfLo h)).toNat = c.halfLo h := by
  have hcount := c.curveCount.isLt
  rw [BitVec.toNat_ofNat]
  cases h <;> simp only [CfgRegs.halfLo, laneNumber] <;> omega

/-- Half of the curves, which are every fourth index. -/
theorem halfHi_sub_halfLo {b : Build} {c : CfgRegs} (hc : CfgLegal b c) (h : LaneId) :
    c.halfHi h = c.halfLo h + 4 * (c.curveCount.toNat / 8) := by
  obtain ⟨-, -, ⟨-, hmod⟩, -⟩ := hc
  cases h <;> simp only [CfgRegs.halfLo, CfgRegs.halfHi, laneNumber] <;> omega

theorem stepsLeft_of_gen {s t : State} {h : LaneId} {time : F32} (hinv : Inv s)
    (hrun : s.mode = .run) (hidle : s.busy h = false) (ht : exec (.gen h time) s = .next t) :
    t.stepsLeft h = s.cfg.curveCount.toNat / 8 * (s.cfg.iterCount.toNat + 1) := by
  obtain ⟨hlane, hbusy, hcfg⟩ := gen_lane_busy hrun hidle ht
  have hhalf := halfHi_sub_halfLo hinv.cfg h
  rcases Nat.eq_zero_or_pos (s.cfg.curveCount.toNat / 8) with hnone | hsome
  · rw [stepsLeft_of_idle (by rw [hbusy, decide_eq_false_iff_not]; omega), hnone, Nat.zero_mul]
  · obtain ⟨n, hn⟩ := Nat.exists_eq_add_of_lt hsome
    have hj : (t.lane h).j.toNat = 0 := by rw [hlane]; rfl
    have hcurves : CurvesLeft t h n := by
      rw [CurvesLeft, hlane, hcfg, CfgRegs.laneStart, toNat_ofNat_halfLo]; omega
    rw [stepsLeft_of_busy (by rw [hbusy, decide_eq_true_eq]; omega) hcurves (by omega), hj, hcfg, hn,
      Nat.zero_add, Nat.succ_mul]
    omega

/-! ### Lane steps -/

theorem toNat_iterated_j {b : Build} {c : CfgRegs} (hc : CfgLegal b c) {r : LaneRegs} (p : Sample)
    (hj : r.j.toNat < c.iterCount.toNat) : (r.iterated p).j.toNat = r.j.toNat + 1 := by
  obtain ⟨-, -, -, hiter, -⟩ := hc
  simp only [Config.iterMax] at hiter
  rw [LaneRegs.iterated, BitVec.toNat_add]
  exact Nat.mod_eq_of_lt (by simp; omega)

theorem toNat_nextCurve_i {s : State} (hinv : Inv s) {h : LaneId} (hbusy : s.busy h = true) :
    (s.cfg.nextCurve (s.lane h)).i.toNat = (s.lane h).i.toNat + 4 := by
  obtain ⟨-, -, -, hmax⟩ := halves_of_cfgLegal hinv.cfg h
  obtain ⟨-, -, hhi, -⟩ := hinv.lanes h hbusy
  rw [CfgRegs.nextCurve, BitVec.toNat_add]
  exact Nat.mod_eq_of_lt (by simp [Config.curveStep]; omega)

/-- The last curve is the one with none left behind it. -/
theorem lastCurve_eq_decide {s : State} {h : LaneId} {n : Nat} (hn : CurvesLeft s h n) :
    s.cfg.lastCurve h (s.lane h) = decide (n = 0) := by
  rw [CurvesLeft] at hn
  refine decide_eq_decide.mpr ?_
  rw [Config.curveStep]
  omega

theorem stepsLeft_of_laneStep {s t : State} {h : LaneId} (hinv : Inv s) (hbusy : s.busy h = true)
    (ht : laneStep h s = .next t) : t.stepsLeft h + 1 = s.stepsLeft h := by
  obtain ⟨n, hn⟩ := exists_curvesLeft hinv hbusy
  obtain ⟨-, -, -, hjle⟩ := hinv.lanes h hbusy
  rw [stepsLeft_of_busy hbusy hn hjle]
  cases laneStep_turn ht with
  | idle hidle => rw [hidle] at hbusy; cases hbusy
  | iteration p _ hj _ =>
    have hsucc := toNat_iterated_j hinv.cfg p hj
    have hcurves : CurvesLeft (s.sampled h p) h n := by
      rw [CurvesLeft, lane_sampled_same, State.sampled_cfg]; exact hn
    rw [stepsLeft_of_busy ((busy_sampled s h p h).trans hbusy) hcurves
      (by rw [lane_sampled_same, hsucc, State.sampled_cfg]; exact hj), lane_sampled_same, hsucc,
      State.sampled_cfg]
    omega
  | curveEnd _ hj =>
    have hrest : (s.curveEnded h).busy h = !decide (n = 0) := by
      rw [busy_curveEnded, hbusy, lastCurve_eq_decide hn, Bool.true_and]
    cases n with
    | zero => rw [stepsLeft_of_idle hrest]; omega
    | succ n =>
      have hj0 : ((s.curveEnded h).lane h).j.toNat = 0 := by rw [lane_curveEnded_same]; rfl
      have hcurves : CurvesLeft (s.curveEnded h) h n := by
        rw [CurvesLeft] at hn
        rw [CurvesLeft, lane_curveEnded_same, curveEnded_cfg, toNat_nextCurve_i hinv hbusy]
        omega
      rw [stepsLeft_of_busy hrest hcurves (by omega), hj0, curveEnded_cfg, Nat.succ_mul]
      omega

/-- Only the end of the last curve lets a lane rest. -/
theorem laneStep_last {s t : State} {h : LaneId} (hinv : Inv s) (hbusy : s.busy h = true)
    (ht : laneStep h s = .next t) (hidle : t.busy h = false) :
    t.lane h = s.cfg.nextCurve (s.lane h) ∧ (t.lane h).i.toNat = s.cfg.halfHi h := by
  cases laneStep_turn ht with
  | idle hrest => rw [hrest] at hbusy; cases hbusy
  | iteration p => rw [busy_sampled, hbusy] at hidle; cases hidle
  | curveEnd =>
    obtain ⟨n, hn⟩ := exists_curvesLeft hinv hbusy
    rw [busy_curveEnded, hbusy, lastCurve_eq_decide hn] at hidle
    obtain rfl : n = 0 := by simpa using hidle
    refine ⟨lane_curveEnded_same s h, ?_⟩
    rw [lane_curveEnded_same, toNat_nextCurve_i hinv hbusy, hn]

/-- Settles O33: the curves left shrink by one at each end of a curve, and ITER_COUNT - j by one at each
iteration. -/
theorem laneStepCountIsExact : Obligations.LaneStepCountIsExact := by
  refine ⟨fun s t h time hinv hrun hidle ht => stepsLeft_of_gen hinv hrun hidle ht,
    fun s t h hinv hbusy ht => stepsLeft_of_laneStep hinv hbusy ht,
    fun s h hinv => busy_eq_false_iff_stepsLeft hinv h, fun s t h hinv hbusy ht hidle => ?_⟩
  obtain ⟨hlane, hi⟩ := laneStep_last hinv hbusy ht hidle
  refine ⟨hi, ?_⟩
  rw [hlane]
  exact ⟨rfl, rfl, rfl, rfl, rfl⟩

/-! ### Runs (20_memory.md R69) -/

theorem stepsLeft_congr {s t : State} {h : LaneId} (hcfg : t.cfg = s.cfg)
    (hlane : t.lane h = s.lane h) (hbusy : t.busy h = s.busy h) : t.stepsLeft h = s.stepsLeft h := by
  rw [State.stepsLeft, State.stepsLeft, hcfg, hlane, hbusy]

theorem lane_passTurn (s : State) (h : LaneId) : s.passTurn.lane h = s.lane h :=
  State.lane_congr (by simp) (by simp) h

theorem stepsLeft_passTurn (s : State) (h : LaneId) : s.passTurn.stepsLeft h = s.stepsLeft h :=
  stepsLeft_congr (by simp) (lane_passTurn s h) (by simp)

theorem Effect.turns {s t : State} (h : Effect s t) : t.turns = s.turns := by
  cases h with
  | plotted _ hplot => rw [plot_eq_plotted hplot]; rfl
  | started g time => simp
  | _ => rfl

/-- The order of the turns is the agents', not the block's (20_memory.md R69). -/
theorem runTurn_turns {a : Turn} {s t : State} (h : runTurn a s = .next t) : t.turns = s.turns := by
  have port {p : PortId} (hp : portStep p s = .next t) : t.turns = s.turns := by
    obtain rfl | ⟨u, hu, rfl⟩ := portStep_effect hp
    · rfl
    · rw [State.accept_turns, hu.turns]
  cases a with
  | host => exact port h
  | sink => exact port h
  | resetPin => cases h; rfl
  | lane g =>
    cases laneStep_turn h with
    | idle => rfl
    | iteration p => rw [sampled_frame]
    | curveEnd => rw [curveEnded_frame]

theorem step_turns {s t : State} {a : Turn} {rest : List Turn} (hturns : s.turns = a :: rest)
    (h : step s = .next t) : t.turns = rest := by
  rw [runTurn_turns h, passTurn_eq, hturns]
  rfl

theorem busy_applyReset (s : State) (h : LaneId) : s.applyReset.busy h = false := by
  rw [State.busy, State.flag, State.applyReset_status]
  exact BitVec.getLsbD_zero

/-- A step either leaves the lane idle, or takes off one step left in the lane's own turn and none in
another's. -/
theorem step_stepsLeft {s t : State} {a : Turn} {rest : List Turn} {h : LaneId} (hinv : Inv s)
    (hturns : s.turns = a :: rest) (hbusy : s.busy h = true) (ht : step s = .next t) :
    t.busy h = false ∨
      t.stepsLeft h + (if a = .lane h then 1 else 0) = s.stepsLeft h := by
  have hturn : s.currentTurn = a := by rw [State.currentTurn, hturns]
  by_cases hreset : a = .resetPin
  · rw [step, hturn, hreset] at ht
    cases ht
    exact .inl (busy_applyReset _ h)
  by_cases hlane : a = .lane h
  · rw [step, hturn, hlane] at ht
    rw [if_pos hlane, stepsLeft_of_laneStep (inv_passTurn hinv) (by simpa using hbusy) ht,
      stepsLeft_passTurn]
    exact .inr rfl
  · have hkept := step_kept ht (hturn ▸ hreset)
    rw [hturn] at hkept
    obtain ⟨hcfg, -, -⟩ := hkept.config (mode_eq_run_of_busy hinv hbusy)
    rw [if_neg hlane, stepsLeft_congr hcfg (hkept.lanes h hlane hbusy)
      ((hkept.busy hlane hbusy).trans hbusy.symm)]
    exact .inr rfl

theorem run_succ {M : Host.Core} {s t : M.State} (k : Nat) (ht : M.step s = .next t) :
    M.run (k + 1) s = M.run k t := by
  rw [Host.Core.run, ht]

theorem lane_idles_of_turns (h : LaneId) (turns : List Turn) : ∀ s : State, Inv s →
    s.turns = turns → s.stepsLeft h ≤ turns.count (.lane h) →
    ∃ k t, k ≤ turns.length ∧ Host.Core.run core k s = .next t ∧ t.busy h = false := by
  induction turns with
  | nil =>
    intro s hinv _ hle
    have hidle := (busy_eq_false_iff_stepsLeft hinv h).mpr (Nat.le_zero.mp hle)
    exact ⟨0, s, le_rfl, rfl, hidle⟩
  | cons a rest ih =>
    intro s hinv hturns hle
    cases hbusy : s.busy h with
    | false => exact ⟨0, s, Nat.zero_le _, rfl, hbusy⟩
    | true =>
      obtain ⟨t, ht⟩ := noStepEverStops s hinv
      rcases step_stepsLeft hinv hturns hbusy ht with hidle | hsteps
      · exact ⟨1, t, by simp, run_succ (M := core) 0 ht, hidle⟩
      · have hrest : t.stepsLeft h ≤ rest.count (.lane h) := by
          rw [List.count_cons, ← hsteps] at hle
          simpa using hle
        obtain ⟨k, u, hk, hu, hidle⟩ :=
          ih t (everyStepKeepsTheInvariant s t hinv ht) (step_turns hturns ht) hrest
        exact ⟨k + 1, u, Nat.succ_le_succ hk, (run_succ (M := core) k ht).trans hu, hidle⟩

/-- Settles O58, by induction on the placed turns: those left are never fewer than the lane's steps. -/
theorem laneFinishesWithinItsTurns : Obligations.LaneFinishesWithinItsTurns :=
  fun s h hinv hle => lane_idles_of_turns h s.turns s hinv rfl hle

end Sys2Proof.Machine
end

section
/-! The sample of an iteration step (41_mapper.md R143, R145, R147): its grid test, its cell, and the Plot it
makes. -/

namespace Sys2Proof.Machine

/-! ### The grid test and the cell (41_mapper.md R147) -/

/-- The guard of `Emit` on one coordinate, as a test of the value. -/
theorem insideGrid_iff {n : Nat} (hn : n < 2 ^ 24) (v : F32) :
    InsideGrid n v ↔ fge v 0 = true ∧ flt v (u2f n) = true := by
  obtain ⟨hcompare, -⟩ := comparisonsFollowTheValues
  have hsize := isFinite_u2f hn
  have hval : units (u2f n) = n * 2 ^ 149 := by rw [units_u2f hn]; push_cast; rfl
  have hguard (hv : isFinite v = true) :
      (fge v 0 = true ∧ flt v (u2f n) = true) ↔ 0 ≤ units v ∧ units v < n * 2 ^ 149 := by
    rw [(hcompare v 0 hv (by decide)).2, (hcompare v _ hv hsize).1, hval]
    rfl
  refine ⟨fun ⟨hv, hunits⟩ => (hguard hv).mpr hunits, fun h => ?_⟩
  obtain ⟨-, -, hlow⟩ := (fge_iff _ _).mp h.1
  obtain ⟨-, -, hhigh⟩ := (flt_iff _ _).mp h.2
  have hv : isFinite v = true := isFinite_of_between (by decide) hsize hlow hhigh.le
  exact ⟨hv, (hguard hv).mp h⟩

theorem inGrid_iff_insideGrid (c : CfgRegs) (p : Sample) : c.inGrid p = true ↔
    InsideGrid c.pixelSize.toNat p.x ∧ InsideGrid c.pixelSize.toNat p.y := by
  have hsize : c.pixelSize.toNat < 2 ^ 24 := c.pixelSize.isLt.trans (by decide)
  rw [inGrid_iff, insideGrid_iff hsize, insideGrid_iff hsize]

/-- From 0 on, truncating the magnitude is truncating the value. -/
theorem truncUnits_eq_ftruncU {v : F32} (hv : 0 ≤ units v) : truncUnits v = ftruncU v := by
  have hmag : units v = (magUnits v : Int) := by have := natAbs_units v; omega
  rw [truncUnits, hmag, ftruncU, ftruncMag]
  exact Int.toNat_natCast _

theorem truncUnits_of_insideGrid {n : Nat} (hn : n < 2 ^ 24) {v : F32} (hv : InsideGrid n v) :
    truncUnits v = ftruncU v ∧ ftruncU v < n := by
  obtain ⟨hge, hlt⟩ := (insideGrid_iff hn v).mp hv
  obtain ⟨-, hunits, -⟩ := hv
  exact ⟨truncUnits_eq_ftruncU hunits, ftruncU_lt hn hge hlt⟩

/-- A sample in the grid falls in a cell of it. -/
theorem cell_of_inGrid {c : CfgRegs} {p : Sample} (hgrid : c.inGrid p = true) :
    (truncUnits p.y = p.row ∧ p.row < c.pixelSize.toNat) ∧
    (truncUnits p.x = ftruncU p.x ∧ ftruncU p.x < c.pixelSize.toNat) := by
  have hsize : c.pixelSize.toNat < 2 ^ 24 := c.pixelSize.isLt.trans (by decide)
  obtain ⟨hx, hy⟩ := (inGrid_iff_insideGrid c p).mp hgrid
  exact ⟨truncUnits_of_insideGrid hsize hy, truncUnits_of_insideGrid hsize hx⟩

/-! ### The Plot of a sample (42_slots.md R171, R172) -/

theorem sampleMem_of_not_inGrid {s : State} {p : Sample} (hgrid : s.cfg.inGrid p = false) :
    s.sampleMem p = s.mem := by
  rw [State.sampleMem, State.sampleAction, hgrid]
  exact Memory.setBank_bank _ _

/-- The memories after an iteration are those after a Plot of the sample's cell. -/
theorem sampleMem_of_plot {s u : State} {p : Sample} (hgrid : s.cfg.inGrid p = true)
    (hu : s.plot p.row p.column p.c = .ok u) : s.sampleMem p = u.mem := by
  rw [plot_eq_plotted hu, State.sampleMem, State.sampleAction, if_pos hgrid]
  rfl

/-- PLOT of a cell in the grid is accepted after its Plot (42_slots.md R172). -/
theorem exec_plot_of_inside {s u : State} {row x : BitVec 10} {c : Colour} (hrun : s.mode = .run)
    (hrow : row.toNat < s.cfg.pixelSize.toNat) (hx : x.toNat < s.cfg.pixelSize.toNat)
    (hu : s.plot row.toNat x c = .ok u) : exec (.plot row x c) s = .next (u.accept .h) := by
  refine (inMode_same _ hrun).trans ?_
  rw [if_neg (by omega), hu, orFault_ok]

/-- Under `Inv` the grid has at most 1024 rows and columns, which fit the fields of PLOT. -/
theorem toNat_ofNat_of_lt_pixelSize {s : State} (hinv : Inv s) {k : Nat}
    (hk : k < s.cfg.pixelSize.toNat) : (BitVec.ofNat 10 k).toNat = k := by
  have hgrid := pixelSize_le_rowsMax hinv
  have hrows := s.build.rowsMax.isLt
  rw [BitVec.toNat_ofNat]
  exact Nat.mod_eq_of_lt (by omega)

/-- An iteration step in the grid leaves the memories that a PLOT of its cell leaves. -/
theorem sampled_plots {s : State} (hinv : Inv s) (hrun : s.mode = .run) (h : LaneId) {p : Sample}
    (hgrid : s.cfg.inGrid p = true) :
    truncUnits p.y < s.cfg.pixelSize.toNat ∧ truncUnits p.x < s.cfg.pixelSize.toNat ∧
    (∃ u, s.plot (truncUnits p.y) (BitVec.ofNat 10 (truncUnits p.x)) p.c = .ok u ∧
      (s.sampled h p).mem = u.mem) ∧
    ∃ u, exec (.plot (BitVec.ofNat 10 (truncUnits p.y)) (BitVec.ofNat 10 (truncUnits p.x)) p.c) s =
      .next u ∧ (s.sampled h p).mem = u.mem := by
  obtain ⟨⟨hy, hrow⟩, hx, hcolumn⟩ := cell_of_inGrid hgrid
  obtain ⟨u, hu⟩ := plot_ok p.column p.c (row_lt_rowsMax hinv hgrid) (capVal_le_capMax hinv p.row)
  have hmem : (s.sampled h p).mem = u.mem :=
    (State.sampled_mem s h p).trans (sampleMem_of_plot hgrid hu)
  have hrow10 := toNat_ofNat_of_lt_pixelSize hinv hrow
  have hcolumn10 := toNat_ofNat_of_lt_pixelSize hinv hcolumn
  rw [hy, hx]
  refine ⟨hrow, hcolumn, ⟨u, hu, hmem⟩, u.accept .h, ?_, by rw [hmem, State.accept_mem]⟩
  exact exec_plot_of_inside hrun (by rwa [hrow10]) (by rwa [hcolumn10]) (by rwa [hrow10])

/-! ### The iteration step (41_mapper.md R143) -/

/-- Settles O28: the step is `State.sampled` of the sample that the four reads give, and each clause is a
rule about it. -/
theorem iterationStepComputesOneSample : Obligations.IterationStepComputesOneSample := by
  intro s h ia ib oa ob p hinv hbusy hj ha hb hp
  obtain ⟨q, hq⟩ := laneSample_ok_of_inv hinv h
  obtain rfl : q = p := by
    rw [laneSample_eq_ok hq, hp, CfgRegs.indices, ha, hb]
    rfl
  obtain ⟨t, ht⟩ := laneStep_answers h hinv
  obtain rfl := laneStep_eq_sampled hbusy hj hq ht
  refine ⟨inGrid_iff_insideGrid s.cfg q, _, ht, lane_sampled_same s h q,
    fun g hg => lane_sampled_other s h q hg, ?_, err_range_sampled s h q,
    fun n hnum hrange => flag_sampled_other s h q hnum hrange,
    fun hout => (State.sampled_mem s h q).trans (sampleMem_of_not_inGrid hout),
    fun hgrid => sampled_plots hinv (mode_eq_run_of_busy hinv hbusy) h hgrid, sampled_frame s h q⟩
  rw [err_num_sampled, CfgRegs.indices, ha, hb, Bool.or_assoc]

/-! ### A table within bounds (41_mapper.md R152) -/

/-- The elements that a lane can read: an index is below N, and the table holds a quarter more. -/
theorem index_lt_table (c : CfgRegs) (a p : F32) :
    (c.index a p).1 < 5 * c.tableSize / 4 ∧ (c.index a p).1 + c.quarter < 5 * c.tableSize / 4 := by
  have hlt := index_lt_tableSize c a p
  rw [CfgRegs.quarter]
  omega

theorem TableInBounds.bounded {s : State} {lo hi : F32} (h : TableInBounds s lo hi) {k : Nat}
    (hk : k < 5 * s.cfg.tableSize / 4) : Bounded lo hi (s.lutVal k) :=
  ⟨h.finite k hk, h.lower k hk, h.upper k hk⟩

theorem inGrid_of_tableInBounds {s : State} {lo hi : F32} (htable : TableInBounds s lo hi)
    {h : LaneId} {p : Sample} (hp : s.laneSample h = .ok p) : s.cfg.inGrid p = true := by
  have hsize : isFinite (u2f s.cfg.pixelSize.toNat) = true :=
    isFinite_u2f (s.cfg.pixelSize.isLt.trans (by decide))
  have hsum {j k : Nat} (hj : j < 5 * s.cfg.tableSize / 4) (hk : k < 5 * s.cfg.tableSize / 4) :=
    (htable.bounded hj).fadd_between (htable.bounded hk) hsize htable.floor htable.ceil
  obtain ⟨ha, haq⟩ := index_lt_table s.cfg (s.lane h).a1 (s.lane h).x
  obtain ⟨hb, hbq⟩ := index_lt_table s.cfg (s.lane h).a2 (s.lane h).y
  rw [laneSample_eq_ok hp, inGrid_iff]
  exact ⟨hsum ha hb, hsum haq hbq⟩

/-- Settles O32: both coordinates are sums of two table elements, and rounding keeps the order of the
sums. -/
theorem boundedTableNeverRaisesRange : Obligations.BoundedTableNeverRaisesRange := by
  intro s t h lo hi hinv htable hbusy hj ht
  obtain ⟨p, hp⟩ := laneSample_ok_of_inv hinv h
  rw [laneStep_eq_sampled hbusy hj hp ht, err_range_sampled, inGrid_of_tableInBounds htable hp]
  simp

end Sys2Proof.Machine
end

section
/-! The colour of a sample (41_mapper.md R146; 10_state.md R48). -/

namespace Sys2Proof.Machine

/-- The colour of three channels, each in its field. -/
def packColour (red green blue : BitVec 2) : Colour :=
  (blue.setWidth 6 <<< 4) ||| ((green.setWidth 6 <<< 2) ||| red.setWidth 6)

theorem channels_packColour : ∀ red green blue : BitVec 2,
    colourRed (packColour red green blue) = red ∧ colourGreen (packColour red green blue) = green ∧
      colourBlue (packColour red green blue) = blue := by
  decide

theorem colour_eq_packColour (c : CfgRegs) (i : BitVec 16) (j : BitVec 10) : c.colour i j =
    packColour (i.extractLsb' c.redShift.toNat 2) (j.extractLsb' 7 2) (BitVec.ofNat 2
      ((7 - ((i.extractLsb' c.redShift.toNat 2).toNat + (j.extractLsb' 7 2).toNat)) / 2)) := rfl

/-- Settles O30: the two counters' fields are quotients and remainders, and blue fits its two bits. -/
theorem colourChannels : Obligations.ColourChannels := by
  intro c i j
  have hred : (i.extractLsb' c.redShift.toNat 2).toNat = i.toNat / 2 ^ c.redShift.toNat % 4 := by
    rw [BitVec.extractLsb'_toNat, Nat.shiftRight_eq_div_pow]
  have hgreen : (j.extractLsb' 7 2).toNat = j.toNat / 128 % 4 := by
    rw [BitVec.extractLsb'_toNat, Nat.shiftRight_eq_div_pow]
  obtain ⟨hr, hg, hb⟩ := channels_packColour (i.extractLsb' c.redShift.toNat 2)
    (j.extractLsb' 7 2) (BitVec.ofNat 2
      ((7 - ((i.extractLsb' c.redShift.toNat 2).toNat + (j.extractLsb' 7 2).toNat)) / 2))
  rw [colour_eq_packColour, hr, hg, hb, BitVec.toNat_ofNat, hred, hgreen]
  exact ⟨rfl, rfl, Nat.mod_eq_of_lt (by omega)⟩

end Sys2Proof.Machine
end

section
/-! The start of a lane (41_mapper.md R141): what GEN writes, and what it leaves as it was. -/

namespace Sys2Proof.Machine

/-- The halves split CURVE_COUNT in two. -/
theorem halves_eq (c : CfgRegs) : c.halfLo .lane0 = 0 ∧ c.halfHi .lane0 = c.curveCount.toNat / 2 ∧
    c.halfLo .lane1 = c.curveCount.toNat / 2 ∧ c.halfHi .lane1 = c.curveCount.toNat := by
  simp only [CfgRegs.halfLo, CfgRegs.halfHi, laneNumber]
  omega

theorem started_frame (s : State) (h : LaneId) (r : LaneRegs) (n : Nat) (b : Bool) :
    ((s.setLane h r).setFlag n b).accept .h = { s with
      lane0 := (((s.setLane h r).setFlag n b).accept .h).lane0
      lane1 := (((s.setLane h r).setFlag n b).accept .h).lane1
      status := (((s.setLane h r).setFlag n b).accept .h).status
      portH := (((s.setLane h r).setFlag n b).accept .h).portH } := by
  cases h <;> rfl

/-- Settles O27: GEN is one update of the lane's registers and its BUSY bit; CENTRE is a product without
rounding. -/
theorem genStartsTheLane : Obligations.GenStartsTheLane := by
  refine ⟨fun s h time hrun hidle => ?_, fun c => ⟨fun _ _ => centre_eq c, ?_⟩⟩
  · have hexec := exec_gen_of_idle time hrun hidle
    obtain ⟨hlane, hbusy, -⟩ := gen_lane_busy hrun hidle hexec
    refine ⟨_, hexec, ?_⟩
    rw [hlane]
    refine ⟨rfl, rfl, toNat_ofNat_halfLo s.cfg h, rfl, rfl, rfl, hbusy, fun g hg => ?_,
      fun n hn => ?_, accepted_accept (by simp) (by simp) .h, started_frame s h _ _ _⟩
    · rw [State.lane_accept, State.lane_setFlag, State.lane_setLane_other s _ hg]
    · rw [State.flag_accept, State.flag_setFlag_other _ _ hn, State.flag_setLane]
  · obtain ⟨hlo0, hhi0, hlo1, hhi1⟩ := halves_eq c
    exact ⟨hlo0, hhi0, hlo1, hhi1, rfl, rfl, rfl, rfl⟩

end Sys2Proof.Machine
end

section
/-! The commands of the slot accumulator (42_slots.md R171 to R173): which action a Plot takes, and what
PLOT and CLEAR leave as it was. -/

namespace Sys2Proof.Machine

/-! ### The choice of a Plot (42_slots.md R171) -/

@[simp] theorem length_rowEntries (s : State) (b : BankId) (row : Nat) :
    (s.rowEntries b row).length = (s.cntVal b row).toNat := by
  rw [State.rowEntries, List.length_map, List.length_range]

@[simp] theorem getElem_rowEntries (s : State) (b : BankId) (row : Nat) {k : Nat}
    (hk : k < (s.rowEntries b row).length) : (s.rowEntries b row)[k] = s.slotVal b row k := by
  simp only [State.rowEntries, List.getElem_map, List.getElem_range]

theorem mem_rowEntries_iff {s : State} {b : BankId} {row : Nat} {e : Entry} :
    e ∈ s.rowEntries b row ↔ ∃ k < (s.cntVal b row).toNat, s.slotVal b row k = e := by
  simp only [State.rowEntries, List.mem_map, List.mem_range]

theorem plotActionAt_of_full {s : State} {row : Nat} (x : BitVec 10)
    (hfull : (s.capVal row).toNat ≤ (s.cntVal s.writeBank row).toNat) :
    s.plotActionAt row x = .drop := plotAction_full _ x hfull

theorem plotActionAt_of_first {s : State} {row k : Nat} {x : BitVec 10}
    (hroom : (s.cntVal s.writeBank row).toNat < (s.capVal row).toNat)
    (hk : k < (s.cntVal s.writeBank row).toNat) (hkx : entryX (s.slotVal s.writeBank row k) = x)
    (hleast : ∀ j < k, entryX (s.slotVal s.writeBank row j) ≠ x) :
    s.plotActionAt row x = .overwrite k := by
  have hfind : (s.rowEntries s.writeBank row).findIdx? (fun e => entryX e == x) = some k :=
    List.findIdx?_eq_some_iff_getElem.mpr
      ⟨by simpa using hk, by simpa using hkx, fun j hj => by simpa using hleast j hj⟩
  rw [State.plotActionAt, plotAction, if_neg (Nat.not_le.mpr hroom), hfind]

theorem plotActionAt_of_new {s : State} {row : Nat} {x : BitVec 10}
    (hroom : (s.cntVal s.writeBank row).toNat < (s.capVal row).toNat)
    (hnew : ∀ k < (s.cntVal s.writeBank row).toNat, entryX (s.slotVal s.writeBank row k) ≠ x) :
    s.plotActionAt row x = .append (s.cntVal s.writeBank row).toNat := by
  have hfind : (s.rowEntries s.writeBank row).findIdx? (fun e => entryX e == x) = none := by
    refine List.findIdx?_eq_none_iff.mpr fun e he => ?_
    obtain ⟨k, hk, rfl⟩ := mem_rowEntries_iff.mp he
    simpa using hnew k hk
  rw [State.plotActionAt, plotAction, if_neg (Nat.not_le.mpr hroom), hfind]

/-- Settles O19: the scan of a row with room finds the least index with that x, if there is one. -/
theorem plotChoosesItsAction : Obligations.PlotChoosesItsAction := fun _ _ x =>
  ⟨plotActionAt_of_full x, fun hroom =>
    ⟨fun _ hk hkx hleast => plotActionAt_of_first hroom hk hkx hleast, plotActionAt_of_new hroom⟩⟩

/-! ### The Plot of each action -/

theorem plot_of_full {s : State} {row : Nat} (x : BitVec 10) (c : Colour)
    (hrow : row < s.build.rowsMax)
    (hfull : (s.capVal row).toNat ≤ (s.cntVal s.writeBank row).toNat) :
    s.plot row x c = .ok s := by
  simp [State.plot, readCnt_ok _ hrow, State.readCap, hrow, State.scannedEntries, hfull,
    plotAction_full]

theorem plot_of_overwrite {s : State} (hinv : Inv s) {row k : Nat} {x : BitVec 10} (c : Colour)
    (hrow : row < s.build.rowsMax) (hact : s.plotActionAt row x = .overwrite k) :
    k < s.build.capMax ∧
      s.plot row x c = .ok (s.setMem (s.mem.putSlot s.writeBank row k (packEntry x c))) := by
  obtain ⟨t, ht⟩ := plot_ok x c hrow (capVal_le_capMax hinv row)
  obtain ⟨-, ⟨hj, -⟩ | ⟨j, hj, hlt, rfl⟩ | ⟨j, hj, -⟩⟩ := plot_cases ht <;>
    cases hact.symm.trans hj
  exact ⟨hlt, ht⟩

/-- An append is two writes: the slot element, and then the count. -/
theorem plot_of_append {s : State} (hinv : Inv s) {row k : Nat} {x : BitVec 10} (c : Colour)
    (hrow : row < s.build.rowsMax) (hact : s.plotActionAt row x = .append k) :
    ∃ u, k < s.build.capMax ∧ u = s.setMem (s.mem.putSlot s.writeBank row k (packEntry x c)) ∧
      s.plot row x c = .ok (u.setMem (u.mem.putCnt s.writeBank row
        (s.cntVal s.writeBank row + 1))) := by
  obtain ⟨t, ht⟩ := plot_ok x c hrow (capVal_le_capMax hinv row)
  obtain ⟨-, ⟨hj, -⟩ | ⟨j, hj, -⟩ | ⟨j, hj, hlt, rfl⟩⟩ := plot_cases ht <;>
    cases hact.symm.trans hj
  exact ⟨_, hlt, rfl, ht⟩

theorem slotKey_ne {r r' k k' : Nat} (hk : k < 1024) (hk' : k' < 1024) (hne : r ≠ r' ∨ k ≠ k') :
    slotKey r k ≠ slotKey r' k' := fun hkey => by
  obtain ⟨hr, hk⟩ := (slotKey_eq_iff hk hk').mp hkey
  exact hne.elim (· hr) (· hk)

/-- A count below the capacity can grow by 1 without wrapping. -/
theorem toNat_cntVal_succ {s : State} (hinv : Inv s) {b : BankId} {row : Nat}
    (hroom : (s.cntVal b row).toNat < (s.capVal row).toNat) :
    (s.cntVal b row + 1).toNat = (s.cntVal b row).toNat + 1 := by
  have hcap := (capVal_le_capMax hinv row).trans (capMax_le _)
  rw [BitVec.toNat_add]
  exact Nat.mod_eq_of_lt (by simp; omega)

/-! ### PLOT (42_slots.md R172) -/

@[simp] theorem State.cntVal_accept (s : State) (p : PortId) (b : BankId) (row : Nat) :
    (s.accept p).cntVal b row = s.cntVal b row := by
  rw [State.cntVal, State.cntVal, State.accept_mem]

@[simp] theorem State.slotVal_accept (s : State) (p : PortId) (b : BankId) (row k : Nat) :
    (s.accept p).slotVal b row k = s.slotVal b row k := by
  rw [State.slotVal, State.slotVal, State.accept_mem, State.accept_epoch]

/-- A PLOT that writes leaves the display bank, the LUT, CAP and every field but the memories and port
H's pointer. -/
theorem plot_accept_frame {s u : State} {row : Nat} {x : BitVec 10} {c : Colour}
    (hrun : s.mode = .run) (hu : s.plot row x c = .ok u) :
    (u.accept .h).mem.bank s.displayBank = s.mem.bank s.displayBank ∧
      (u.accept .h).mem.lut = s.mem.lut ∧ (u.accept .h).mem.cap = s.mem.cap ∧
      Accepted s (u.accept .h) .h ∧
      u.accept .h = { s with mem := (u.accept .h).mem, portH := (u.accept .h).portH } := by
  have hbank := (Effect.plotted hrun hu).bank_other
  obtain ⟨m, rfl, hlut, hcap⟩ := plot_eq_setMem hu
  exact ⟨by rwa [State.displayBank_eq_other], hlut, hcap, accepted_accept rfl rfl .h, rfl⟩

/-- Settles O20: a read of the write bank after the write of one slot element and of one count. -/
theorem plotAppendsANewEntry : Obligations.PlotAppendsANewEntry := by
  intro s row x c k hinv hrun hrow hx hact
  obtain ⟨-, hroom, -⟩ := plotActionAt_append hact
  obtain ⟨u, hk, hu, hplot⟩ :=
    plot_of_append hinv c (hrow.trans_le (pixelSize_le_rowsMax hinv)) hact
  have hcapMax := capMax_le s.build
  refine ⟨_, exec_plot_of_inside hrun hrow hx hplot, ?_, fun r l hl hne => ?_, ?_, fun r hr => ?_,
    plot_accept_frame hrun hplot⟩
  · rw [State.slotVal_accept, slotVal_putCnt, hu, slotVal_putSlot_same]
  · rw [State.slotVal_accept, slotVal_putCnt, hu, slotVal_putSlot_other]
    exact slotKey_ne (by omega) (by omega) hne
  · rw [State.cntVal_accept, cntVal_putCnt_same, toNat_cntVal_succ hinv hroom]
  · rw [State.cntVal_accept, cntVal_putCnt_other _ _ _ _ hr, hu, cntVal_putSlot]

/-- Settles O21: a read of the write bank after the write of one slot element. -/
theorem plotOverwritesInPlace : Obligations.PlotOverwritesInPlace := by
  intro s row x c k hinv hrun hrow hx hact
  obtain ⟨hk, hplot⟩ := plot_of_overwrite hinv c (hrow.trans_le (pixelSize_le_rowsMax hinv)) hact
  have hcapMax := capMax_le s.build
  refine ⟨_, exec_plot_of_inside hrun hrow hx hplot, ?_, fun r l hl hne => ?_, fun r => ?_,
    plot_accept_frame hrun hplot⟩
  · rw [State.slotVal_accept, slotVal_putSlot_same]
  · rw [State.slotVal_accept, slotVal_putSlot_other]
    exact slotKey_ne (by omega) (by omega) hne
  · rw [State.cntVal_accept, cntVal_putSlot]

/-- Settles O22: the Plot of a full row answers the state it started from. -/
theorem plotToAFullRowIsDropped : Obligations.PlotToAFullRowIsDropped := by
  intro s row x c hrun hrow hx hgrid hfull
  exact ⟨s.accept .h, exec_plot_of_inside hrun hrow hx
    (plot_of_full x c (hrow.trans_le hgrid) hfull), accepted_accept rfl rfl .h, rfl⟩

/-! ### CLEAR (42_slots.md R173) -/

theorem exec_clear_of_idle {s : State} (hrun : s.mode = .run) (hidle : s.anyBusy = false) :
    exec .clear s =
      .next ((s.setMem (s.mem.clearCounts s.writeBank s.build.rowsMax)).accept .h) := by
  refine (inMode_same _ hrun).trans ?_
  rw [hidle]
  rfl

theorem cntVal_clearCounts (s : State) (b : BankId) (rows r : Nat) :
    (s.setMem (s.mem.clearCounts b rows)).cntVal b r = if rows ≤ r then s.cntVal b r else 0 := by
  simp [State.cntVal, Memory.clearCounts, cellsGetZ_dropBelow]

@[simp] theorem Memory.clearCounts_lut (m : Memory) (b : BankId) (rows : Nat) :
    (m.clearCounts b rows).lut = m.lut := Memory.setBank_lut _ _ _

@[simp] theorem Memory.clearCounts_cap (m : Memory) (b : BankId) (rows : Nat) :
    (m.clearCounts b rows).cap = m.cap := Memory.setBank_cap _ _ _

@[simp] theorem Memory.clearCounts_slot (m : Memory) (b : BankId) (rows : Nat) :
    ((m.clearCounts b rows).bank b).slot = (m.bank b).slot := by
  rw [Memory.clearCounts, Memory.bank_setBank_same]

/-- Settles O23: a read of the counts after the rows of the space are taken off the write bank's list. -/
theorem clearEmptiesTheWriteBank : Obligations.ClearEmptiesTheWriteBank := by
  intro s hrun hidle
  refine ⟨_, exec_clear_of_idle hrun hidle, fun r hr => ?_, fun r hr => ?_,
    Memory.clearCounts_slot _ _ _, ?_, Memory.clearCounts_lut _ _ _, Memory.clearCounts_cap _ _ _,
    accepted_accept rfl rfl .h, rfl⟩
  · rw [State.cntVal_accept, cntVal_clearCounts, if_neg (by omega)]
  · rw [State.cntVal_accept, cntVal_clearCounts, if_pos hr]
  · rw [State.displayBank_eq_other, State.accept_mem, (Effect.cleared hrun hidle).bank_other]

end Sys2Proof.Machine
end

section
/-! Rows between two CLEARs (42_slots.md R174): every turn but CLEAR's and the reset pin's leaves the
slot memory as it was, or does one Plot. -/

namespace Sys2Proof.Machine

/-! ### What a Plot does to a row -/

section Plot

variable {s t : State} {row : Nat} {x : BitVec 10} {c : Colour}

/-- A Plot leaves every count, or adds 1 to that of its row. -/
theorem plot_cntVal (h : s.plot row x c = .ok t) (r : Nat) :
    t.cntVal s.writeBank r = s.cntVal s.writeBank r ∨
      r = row ∧ s.plotActionAt row x = .append (s.cntVal s.writeBank row).toNat ∧
        t.cntVal s.writeBank r = s.cntVal s.writeBank r + 1 := by
  obtain ⟨-, ⟨-, rfl⟩ | ⟨k, -, -, rfl⟩ | ⟨k, hact, -, rfl⟩⟩ := plot_cases h
  · exact .inl rfl
  · exact .inl (cntVal_putSlot _ _ _ _ _ _ _)
  · obtain ⟨rfl, -, -⟩ := plotActionAt_append hact
    by_cases hr : r = row
    · subst hr
      exact .inr ⟨rfl, hact, cntVal_putCnt_same (s.setMem _) _ _ _⟩
    · refine .inl ((cntVal_putCnt_other (s.setMem _) _ _ _ hr).trans ?_)
      exact cntVal_putSlot _ _ _ _ _ _ _

/-- A Plot leaves every valid entry, or overwrites the one that has its x. -/
theorem plot_slotVal (hinv : Inv s) (h : s.plot row x c = .ok t) {r k : Nat}
    (hr : r < s.build.rowsMax) (hk : k < (s.cntVal s.writeBank r).toNat) :
    t.slotVal s.writeBank r k = s.slotVal s.writeBank r k ∨
      r = row ∧ s.plotActionAt row x = .overwrite k ∧
        t.slotVal s.writeBank r k = packEntry x c := by
  have hcount := cntVal_le_capMax hinv s.writeBank hr
  have hcapMax := capMax_le s.build
  obtain ⟨-, ⟨-, rfl⟩ | ⟨j, hact, hj, rfl⟩ | ⟨j, hact, hj, rfl⟩⟩ := plot_cases h
  · exact .inl rfl
  · by_cases hplace : r = row ∧ k = j
    · obtain ⟨rfl, rfl⟩ := hplace
      exact .inr ⟨rfl, hact, slotVal_putSlot_same _ _ _ _ _⟩
    · refine .inl (slotVal_putSlot_other _ _ _ _ _ (slotKey_ne (by omega) (by omega) ?_))
      exact not_and_or.mp hplace
  · obtain ⟨rfl, -, -⟩ := plotActionAt_append hact
    have hplace : r ≠ row ∨ k ≠ (s.cntVal s.writeBank row).toNat := by
      by_cases hrow : r = row
      · subst hrow
        exact .inr hk.ne
      · exact .inl hrow
    refine .inl ((slotVal_putCnt (s.setMem _) _ _ _ _ _).trans ?_)
    exact slotVal_putSlot_other _ _ _ _ _ (slotKey_ne (by omega) (by omega) hplace)

end Plot

/-! ### Rows that grow -/

/-- What R174(b), (c) and (e) allow a turn to do to a row of the write bank. -/
structure RowGrows (s t : State) (row : Nat) : Prop where
  count : t.cntVal s.writeBank row = s.cntVal s.writeBank row ∨
    (t.cntVal s.writeBank row).toNat = (s.cntVal s.writeBank row).toNat + 1
  column : ∀ k < (s.cntVal s.writeBank row).toNat,
    entryX (t.slotVal s.writeBank row k) = entryX (s.slotVal s.writeBank row k)
  full : (s.capVal row).toNat ≤ (s.cntVal s.writeBank row).toNat →
    t.rowEntries s.writeBank row = s.rowEntries s.writeBank row

theorem RowGrows.refl (s : State) (row : Nat) : RowGrows s s row :=
  ⟨.inl rfl, fun _ _ => rfl, fun _ => rfl⟩

/-- An append counts one entry more, an overwrite keeps the x, and a full row is dropped on. -/
theorem rowGrows_plot {s t : State} (hinv : Inv s) {row : Nat} {x : BitVec 10} {c : Colour}
    (h : s.plot row x c = .ok t) {r : Nat} (hr : r < s.build.rowsMax) : RowGrows s t r where
  count := by
    refine (plot_cntVal h r).imp_right ?_
    rintro ⟨rfl, hact, hcnt⟩
    obtain ⟨-, hroom, -⟩ := plotActionAt_append hact
    rw [hcnt, toNat_cntVal_succ hinv hroom]
  column k hk := by
    obtain hkept | ⟨rfl, hact, hwritten⟩ := plot_slotVal hinv h hr hk
    · rw [hkept]
    · obtain ⟨-, hx⟩ := plotActionAt_overwrite hact
      rw [hwritten, entryX_packEntry, hx]
  full hfull := by
    have hdrop {a : PlotAction} (hrow : r = row) (hact : s.plotActionAt row x = a) : a = .drop :=
      hact.symm.trans (hrow ▸ plotActionAt_of_full x hfull)
    have hcnt : t.cntVal s.writeBank r = s.cntVal s.writeBank r :=
      (plot_cntVal h r).resolve_right fun ⟨hrow, hact, _⟩ => by cases hdrop hrow hact
    rw [State.rowEntries, State.rowEntries, hcnt]
    refine List.map_congr_left fun k hk => ?_
    exact (plot_slotVal hinv h hr (List.mem_range.mp hk)).resolve_right
      fun ⟨hrow, hact, _⟩ => by cases hdrop hrow hact

/-! ### Turns that leave the slot memory -/

/-- Both banks hold the same counts and slot elements. -/
structure SameSlots (s t : State) : Prop where
  epoch : t.epoch = s.epoch
  bank : ∀ b, t.mem.bank b = s.mem.bank b

section Same

variable {s t u : State}

theorem SameSlots.of_mem (hepoch : t.epoch = s.epoch) (hmem : t.mem = s.mem) : SameSlots s t :=
  ⟨hepoch, fun _ => by rw [hmem]⟩

theorem SameSlots.cntVal (h : SameSlots s t) (b : BankId) (row : Nat) :
    t.cntVal b row = s.cntVal b row := by
  rw [State.cntVal, State.cntVal, h.bank]

theorem SameSlots.slotVal (h : SameSlots s t) (b : BankId) (row k : Nat) :
    t.slotVal b row k = s.slotVal b row k := by
  rw [State.slotVal, State.slotVal, h.bank, h.epoch]

theorem SameSlots.rowEntries (h : SameSlots s t) (b : BankId) (row : Nat) :
    t.rowEntries b row = s.rowEntries b row := by
  rw [State.rowEntries, State.rowEntries, h.cntVal]
  exact List.map_congr_left fun k _ => h.slotVal b row k

theorem RowGrows.congr {row : Nat} (h : RowGrows s t row) (hsame : SameSlots t u) :
    RowGrows s u row where
  count := by rw [hsame.cntVal]; exact h.count
  column k hk := by rw [hsame.slotVal]; exact h.column k hk
  full hfull := by rw [hsame.rowEntries]; exact h.full hfull

theorem SameSlots.rowGrows (h : SameSlots s t) (row : Nat) : RowGrows s t row :=
  (RowGrows.refl s row).congr h

/-- PLOT and CLEAR are the only commands that write the slot memory (42_slots.md R172, R173). -/
theorem exec_sameSlots {i : Instr} (hclear : i ≠ .clear) (hplot : ∀ row x c, i ≠ .plot row x c)
    (h : exec i s = .next t) : SameSlots s t := by
  cases i with
  | nop => cases h; exact .of_mem rfl rfl
  | cfgw reg value =>
    rcases execCfgw_cases h with rfl | rfl | rfl | ⟨-, -, -, rfl⟩ <;> exact .of_mem rfl rfl
  | lutw idx value =>
    rcases execLutw_cases h with rfl | rfl | ⟨-, -, rfl⟩
    · exact .of_mem rfl rfl
    · exact .of_mem rfl rfl
    · exact ⟨rfl, fun b => by cases b <;> rfl⟩
  | capw row cap =>
    rcases execCapw_cases h with rfl | rfl | ⟨-, -, -, rfl⟩
    · exact .of_mem rfl rfl
    · exact .of_mem rfl rfl
    · exact ⟨rfl, fun b => by cases b <;> rfl⟩
  | lock => rcases execLock_cases h with rfl | ⟨-, rfl⟩ <;> exact .of_mem rfl rfl
  | stat => cases h; exact .of_mem rfl rfl
  | clear => exact absurd rfl hclear
  | plot row x colour => exact absurd rfl (hplot row x colour)
  | gen g time =>
    rcases execGen_cases h with rfl | ⟨-, -, rfl⟩
    · exact .of_mem rfl rfl
    · exact .of_mem (by simp) (by simp)
  | join => rcases execJoin_cases h with rfl | ⟨-, -, rfl⟩ | ⟨-, -, rfl⟩ <;> exact .of_mem rfl rfl
  | swap => rcases execSwap_cases h with rfl | ⟨-, -, rfl⟩ | ⟨-, -, rfl⟩ <;> exact .of_mem rfl rfl
  | sline row => rcases execSline_cases h with ⟨-, rfl⟩ | ⟨-, -, rfl⟩ <;> exact .of_mem rfl rfl
  | vsync => cases h; exact .of_mem rfl rfl

theorem sameSlots_refused (s : State) (c : Cause) (p : PortId) :
    SameSlots s ((s.raise c).accept p) := .of_mem (by simp) (by simp)

theorem sameSlots_passTurn (s : State) : SameSlots s s.passTurn := .of_mem (by simp) (by simp)

theorem sameSlots_curveEnded (s : State) (h : LaneId) : SameSlots s (s.curveEnded h) := by
  unfold State.curveEnded
  split <;> exact .of_mem (by simp) (by simp)

/-! ### Turns -/

theorem exec_rowGrows (hinv : Inv s) {i : Instr} (hclear : i ≠ .clear) (h : exec i s = .next t)
    {row : Nat} (hrow : row < s.build.rowsMax) : RowGrows s t row := by
  by_cases hplot : ∃ r x c, i = .plot r x c
  · obtain ⟨r, x, c, rfl⟩ := hplot
    rcases execPlot_cases h with rfl | rfl | ⟨-, -, -, u, hu, rfl⟩
    · exact (sameSlots_refused s _ _).rowGrows row
    · exact (sameSlots_refused s _ _).rowGrows row
    · exact (rowGrows_plot hinv hu hrow).congr (.of_mem rfl rfl)
  · exact (exec_sameSlots hclear (fun r x c hi => hplot ⟨r, x, c, hi⟩) h).rowGrows row

/-- Port S presents no CLEAR, since a port decodes its own commands only (30_encoding.md R94). -/
theorem portStep_rowGrows (hinv : Inv s) {p : PortId} (hclear : ¬ Presents s p .clear)
    (h : portStep p s = .next t) {row : Nat} (hrow : row < s.build.rowsMax) : RowGrows s t row := by
  unfold portStep at h
  split at h
  · cases h; exact .refl s row
  next w hw =>
    split at h
    · rw [reject_next.mp h]
      exact (sameSlots_refused s .ill p).rowGrows row
    next i hdec =>
      refine exec_rowGrows hinv ?_ h hrow
      rintro rfl
      exact hclear ⟨w, hw, hdec⟩

theorem not_presents_clear_s (s : State) : ¬ Presents s .s .clear := by
  rintro ⟨w, -, hdec⟩
  cases port_of_decodeOn hdec

/-- A sample in the grid is one Plot of its cell (41_mapper.md R147). -/
theorem sampled_rowGrows (hinv : Inv s) (h : LaneId) (p : Sample) {row : Nat}
    (hrow : row < s.build.rowsMax) : RowGrows s (s.sampled h p) row := by
  cases hgrid : s.cfg.inGrid p with
  | true =>
    obtain ⟨u, hu⟩ :=
      plot_ok p.column p.c (row_lt_rowsMax hinv hgrid) (capVal_le_capMax hinv p.row)
    obtain ⟨m, rfl, -⟩ := plot_eq_setMem hu
    exact (rowGrows_plot hinv hu hrow).congr
      (.of_mem (by simp) ((State.sampled_mem s h p).trans (sampleMem_of_plot hgrid hu)))
  | false =>
    exact (SameSlots.of_mem (by simp)
      ((State.sampled_mem s h p).trans (sampleMem_of_not_inGrid hgrid))).rowGrows row

theorem laneStep_rowGrows (hinv : Inv s) {h : LaneId} (ht : laneStep h s = .next t) {row : Nat}
    (hrow : row < s.build.rowsMax) : RowGrows s t row := by
  cases laneStep_turn ht with
  | idle => exact .refl s row
  | iteration p => exact sampled_rowGrows hinv h p hrow
  | curveEnd => exact (sameSlots_curveEnded s h).rowGrows row

theorem runTurn_rowGrows (hinv : Inv s) {a : Turn} (h : runTurn a s = .next t)
    (hreset : a ≠ .resetPin) (hclear : ¬ (a = .host ∧ Presents s .h .clear)) {row : Nat}
    (hrow : row < s.build.rowsMax) : RowGrows s t row := by
  cases a with
  | host => exact portStep_rowGrows hinv (fun hp => hclear ⟨rfl, hp⟩) h hrow
  | sink => exact portStep_rowGrows hinv (not_presents_clear_s s) h hrow
  | lane l => exact laneStep_rowGrows hinv h hrow
  | resetPin => exact absurd rfl hreset

theorem RowGrows.of_passTurn {row : Nat} (h : RowGrows s.passTurn t row) : RowGrows s t row := by
  have hsame := sameSlots_passTurn s
  have hcap : s.passTurn.capVal row = s.capVal row := by simp [State.capVal]
  obtain ⟨hcount, hcolumn, hfull⟩ := h
  simp only [State.writeBank_passTurn, hsame.cntVal, hsame.slotVal, hsame.rowEntries, hcap]
    at hcount hcolumn hfull
  exact ⟨hcount, hcolumn, hfull⟩

end Same

/-- Settles O26, agent by agent: a turn that is neither CLEAR's nor the reset pin's does at most one
Plot. -/
theorem rowsOnlyGrowUntilCleared : Obligations.RowsOnlyGrowUntilCleared := by
  intro s t hinv h hreset hclear row hrow
  obtain ⟨hcount, hcolumn, hfull⟩ := (runTurn_rowGrows (inv_passTurn hinv) h hreset
    (by rwa [presents_passTurn]) (by rwa [State.passTurn_build])).of_passTurn
  exact ⟨hcount, hcolumn, hfull⟩

end Sys2Proof.Machine
end

section
/-! Synchronisation and scan-out (43_sync_scanout.md R190 to R193): what JOIN, SWAP, VSYNC and SLINE answer in
each case of their tests. -/

namespace Sys2Proof.Machine

/-! ### Holding (00_scope.md R11) -/

theorem holdUntil_of_ready {s : State} {ready : Bool} (effect : Out) (h : ready = true) :
    s.holdUntil ready effect = effect := if_pos h

theorem holdUntil_of_not_ready {s : State} {ready : Bool} (effect : Out) (h : ready = false) :
    s.holdUntil ready effect = .next s := if_neg (by simp [h])

/-! ### JOIN (43_sync_scanout.md R190) -/

theorem exec_join_of_idle {s : State} (hrun : s.mode = .run) (hidle : s.anyBusy = false) :
    exec .join s = .next (s.accept .h) :=
  (inMode_same _ hrun).trans (holdUntil_of_ready _ (by rw [hidle]; rfl))

theorem exec_join_of_busy {s : State} (hrun : s.mode = .run) (hbusy : s.anyBusy = true) :
    exec .join s = .next s :=
  (inMode_same _ hrun).trans (holdUntil_of_not_ready _ (by rw [hbusy]; rfl))

theorem anyBusy_eq_true_iff (s : State) :
    s.anyBusy = true ↔ s.busy .lane0 = true ∨ s.busy .lane1 = true := Bool.or_eq_true_iff

/-- Settles O40: the hold's condition is that no lane is busy, and its effect is the acceptance alone. -/
theorem joinWaitsForBothLanes : Obligations.JoinWaitsForBothLanes := by
  refine fun s hrun => ⟨fun h0 h1 => ?_, fun hbusy => ?_⟩
  · have hidle : s.anyBusy = false := (anyBusy_eq_false_iff s).mpr fun
      | .lane0 => h0
      | .lane1 => h1
    exact ⟨s.accept .h, exec_join_of_idle hrun hidle, accepted_accept rfl rfl .h, rfl⟩
  · exact exec_join_of_busy hrun ((anyBusy_eq_true_iff s).mpr hbusy)

/-! ### SWAP (43_sync_scanout.md R191) -/

/-- The state of an accepted SWAP, before the port accepts it. -/
def State.swapped (s : State) : State := (s.setFlag wbBit (!s.flag wbBit)).setFlag vspBit false

theorem exec_swap_of_ready {s : State} (hrun : s.mode = .run) (hready : s.swapReady = true) :
    exec .swap s = .next (s.swapped.accept .h) :=
  (inMode_same _ hrun).trans (holdUntil_of_ready _ hready)

theorem exec_swap_of_not_ready {s : State} (hrun : s.mode = .run) (hready : s.swapReady = false) :
    exec .swap s = .next s :=
  (inMode_same _ hrun).trans (holdUntil_of_not_ready _ hready)

theorem swapReady_eq_false_iff (s : State) : s.swapReady = false ↔
    s.busy .lane0 = true ∨ s.busy .lane1 = true ∨ s.vsp = false := by
  simp [State.swapReady, State.anyBusy, or_assoc, imp_iff_not_or]

/-- The bank that a toggled WB names is the other one (10_state.md R33). -/
theorem writeBank_toggled (s : State) :
    (s.setFlag wbBit (!s.flag wbBit)).writeBank = s.writeBank.other := by
  rw [State.writeBank, State.writeBank, State.flag_setFlag_same s _ (by decide)]
  cases s.flag wbBit <;> rfl

@[simp] theorem BankId.other_other (b : BankId) : b.other.other = b := by cases b <;> rfl

theorem writeBank_swapped (s : State) : s.swapped.writeBank = s.writeBank.other := by
  rw [State.swapped, writeBank_setFlag_other _ false (by decide), writeBank_toggled]

theorem vsp_swapped (s : State) : s.swapped.vsp = false :=
  State.flag_setFlag_same _ false (by decide)

theorem flag_swapped_other (s : State) {n : Nat} (hwb : n ≠ wbBit) (hvsp : n ≠ vspBit) :
    s.swapped.flag n = s.flag n := by
  rw [State.swapped, State.flag_setFlag_other _ _ hvsp, State.flag_setFlag_other _ _ hwb]

/-- Settles O41: an accepted SWAP writes the bits WB and VSP, and the banks' roles are read off WB. -/
theorem swapExchangesTheBanks : Obligations.SwapExchangesTheBanks := by
  refine fun s hrun => ⟨fun h0 h1 hvsp => ?_, fun hwait => ?_⟩
  · refine ⟨_, exec_swap_of_ready hrun ((swapReady_iff s).mpr ⟨h0, h1, hvsp⟩), ?_, ?_, vsp_swapped s,
      fun n hwb hvsp => flag_swapped_other s hwb hvsp, accepted_accept rfl rfl .h, rfl⟩
    · rw [State.writeBank_accept, writeBank_swapped, State.displayBank_eq_other]
    · rw [State.displayBank_eq_other, State.writeBank_accept, writeBank_swapped, BankId.other_other]
  · exact exec_swap_of_not_ready hrun ((swapReady_eq_false_iff s).mpr hwait)

/-! ### VSYNC (43_sync_scanout.md R192) -/

/-- Settles O42: VSYNC has no test, and its effect is one bit of STATUS. -/
theorem vsyncSetsTheLatch : Obligations.VsyncSetsTheLatch := fun s =>
  ⟨(s.setFlag vspBit true).accept .s, rfl, State.flag_setFlag_same s true (by decide),
    fun _ hn => State.flag_setFlag_other (n := vspBit) s true hn, accepted_accept rfl rfl .s, rfl⟩

/-! ### SLINE (43_sync_scanout.md R193) -/

theorem exec_sline_of_outside {s : State} {row : BitVec 10}
    (hrow : s.cfg.pixelSize.toNat ≤ row.toNat) :
    exec (.sline row) s = (s.respondS [0]).reject .range .s := if_pos hrow

/-- Under the invariant a row of the grid is read without a fault, and in index order. -/
theorem exec_sline_of_inside {s : State} {row : BitVec 10} (hinv : Inv s)
    (hrow : row.toNat < s.cfg.pixelSize.toNat) : exec (.sline row) s =
      .next ((s.respondS (countWord (s.cntVal s.displayBank row.toNat) ::
        s.rowEntries s.displayBank row.toNat)).accept .s) := by
  obtain ⟨t, ht⟩ := exec_answers (.sline row) hinv
  obtain ⟨hout, -⟩ | ⟨-, -, rfl⟩ := execSline_cases ht
  · omega
  · exact ht

/-- Settles O43: each branch of SLINE is one response and one acceptance, outside the grid with RANGE. -/
theorem slineRespondsTheDisplayRow : Obligations.SlineRespondsTheDisplayRow := by
  refine fun s row hinv => ⟨fun hin => ?_, fun hout => ?_⟩
  · exact ⟨_, exec_sline_of_inside hinv hin, rfl, accepted_accept rfl rfl .s, rfl⟩
  · obtain ⟨herr, hflags, -, -⟩ := raisesOnly_accept (s.respondS [0]) .range .s
    exact ⟨_, exec_sline_of_outside hout, rfl, herr, hflags, accepted_accept rfl rfl .s, rfl⟩

end Sys2Proof.Machine
end

section
/-! A held JOIN is accepted (43_sync_scanout.md R190, "a hold always ends"): while port H waits no lane
starts, so the steps left to both lanes run out in the turns they are given. -/

namespace Sys2Proof.Machine

/-! ### While port H does not move -/

/-- A port that presents the same word after its turn was held, or had none to present. -/
theorem portStep_of_port_eq {p : PortId} {s t : State} (h : portStep p s = .next t)
    (hport : t.port p = s.port p) : t = s := by
  obtain ht | ⟨u, hu, rfl⟩ := portStep_effect h
  · exact ht
  · rw [State.port_accept_same, hu.port] at hport
    exact absurd (congrArg Port.cp hport) (Nat.succ_ne_self _)

/-- No command of port S is a lane's (43_sync_scanout.md R192, R193). -/
theorem portStep_s_busy {s t : State} (h : portStep .s s = .next t) (l : LaneId) :
    t.busy l = s.busy l := by
  unfold portStep at h
  split at h
  · cases h; rfl
  · split at h
    · rw [reject_next.mp h, State.busy_accept, State.busy_raise]
    next i hdec =>
      have hport := port_of_decodeOn hdec
      cases i with
      | sline row =>
        rcases execSline_cases h with ⟨-, rfl⟩ | ⟨-, -, rfl⟩
        · rw [State.busy_accept, State.busy_raise]; rfl
        · rw [State.busy_accept]; rfl
      | vsync =>
        cases h
        rw [State.busy_accept]
        exact State.flag_setFlag_other s true (by cases l <;> decide)
      | _ => cases hport

/-- A lane starts only by GEN, which port H accepts (41_mapper.md R141). -/
theorem runTurn_idle_of_held {a : Turn} {s t : State} (h : runTurn a s = .next t)
    (hheld : t.portH = s.portH) {l : LaneId} (hidle : s.busy l = false) : t.busy l = false := by
  cases a with
  | host => rwa [portStep_of_port_eq h hheld]
  | sink => rwa [portStep_s_busy h]
  | lane g =>
    cases laneStep_turn h with
    | idle => exact hidle
    | iteration p => rwa [busy_sampled]
    | curveEnd =>
      by_cases hl : l = g
      · subst hl; rw [busy_curveEnded, hidle, Bool.false_and]
      · exact (flag_curveEnded_other s g fun hbit => hl (busyBit_injective hbit)).trans hidle
  | resetPin => cases h; exact busy_applyReset s l

/-- The turns placed behind the present one suffice for lane `l` if they did with it. -/
theorem stepsLeft_le_of_held {s t : State} {a : Turn} {rest : List Turn} {l : LaneId} {n : Nat}
    (hinv : Inv s) (hturns : s.turns = a :: rest) (ht : step s = .next t)
    (hheld : t.portH = s.portH) (hle : s.stepsLeft l ≤ n + if a = .lane l then 1 else 0) :
    t.stepsLeft l ≤ n := by
  cases hbusy : s.busy l with
  | false =>
    have hidle : t.busy l = false :=
      runTurn_idle_of_held ht (by rwa [State.passTurn_portH]) (by rwa [State.busy_passTurn])
    exact (stepsLeft_of_idle hidle).trans_le (Nat.zero_le n)
  | true =>
    rcases step_stepsLeft hinv hturns hbusy ht with hidle | hsteps
    · exact (stepsLeft_of_idle hidle).trans_le (Nat.zero_le n)
    · omega

/-! ### The wait of a JOIN -/

/-- In state `s` port H presents JOIN, and the turns `before` a host turn suffice for both lanes. -/
structure JoinWaits (before after : List Turn) (s : State) : Prop where
  inv : Inv s
  run : s.mode = .run
  presents : Presents s .h .join
  turns : s.turns = before ++ .host :: after
  noReset : ∀ a ∈ before, a ≠ .resetPin
  enough : ∀ l, s.stepsLeft l ≤ before.count (.lane l)

section Waits

variable {before after : List Turn} {s t : State}

/-- The host's turn finds both lanes idle. -/
theorem JoinWaits.accepted (h : JoinWaits [] after s) : step s = .next (s.passTurn.accept .h) := by
  have hidle : s.anyBusy = false := (anyBusy_eq_false_iff s).mpr fun l =>
    (busy_eq_false_iff_stepsLeft h.inv l).mpr (Nat.le_zero.mp (h.enough l))
  have hturn : s.currentTurn = PortId.h.turn := by rw [State.currentTurn, h.turns]; rfl
  obtain ⟨w, hw, hjoin⟩ := h.presents
  obtain ⟨hstep, -⟩ := stepRunsTheDecodedCommand s .h w .join hturn hw hjoin
  rw [hstep, exec_join_of_idle (by rw [State.mode_passTurn, h.run])
    (by rw [State.anyBusy_passTurn, hidle])]

/-- An earlier turn accepts the JOIN, or leaves it waiting with enough turns to come. -/
theorem JoinWaits.accepted_or_waits {a : Turn} (h : JoinWaits (a :: before) after s) (ht : step s = .next t) :
    t.portH.cp = s.portH.cp + 1 ∨ (t.portH = s.portH ∧ JoinWaits before after t) := by
  have hreset : a ≠ .resetPin := h.noReset a List.mem_cons_self
  have hturn : s.currentTurn = a := by rw [State.currentTurn, h.turns]; rfl
  obtain hheld | ⟨-, hmoved⟩ := runTurn_port ht .h
  · rw [State.port_passTurn] at hheld
    refine .inr ⟨hheld, everyStepKeepsTheInvariant s t h.inv ht,
      (step_kept ht (hturn ▸ hreset)).mode h.run, ?_, step_turns h.turns ht,
      fun b hb => h.noReset b (List.mem_cons_of_mem a hb),
      fun l => stepsLeft_le_of_held h.inv h.turns ht hheld ?_⟩
    · rw [Presents, State.presented, hheld]; exact h.presents
    · simpa [List.count_cons] using h.enough l
  · rw [State.port_passTurn] at hmoved
    exact .inl (congrArg Port.cp hmoved)

end Waits

theorem join_accepted_of_waits (after before : List Turn) : ∀ s : State, JoinWaits before after s →
    ∃ k t, k ≤ before.length + 1 ∧ Host.Core.run core k s = .next t ∧
      t.portH.cp = s.portH.cp + 1 := by
  induction before with
  | nil =>
    intro s h
    exact ⟨1, _, le_rfl, run_succ (M := core) 0 h.accepted, by simp⟩
  | cons a before ih =>
    intro s h
    obtain ⟨t, ht⟩ := noStepEverStops s h.inv
    obtain hmoved | ⟨hheld, hwaits⟩ := h.accepted_or_waits ht
    · exact ⟨1, t, by simp, run_succ (M := core) 0 ht, hmoved⟩
    · obtain ⟨k, u, hk, hu, hmoved⟩ := ih t hwaits
      exact ⟨k + 1, u, Nat.succ_le_succ hk, (run_succ (M := core) k ht).trans hu, hheld ▸ hmoved⟩

/-- Settles O59, by induction on the turns before the host's: while the JOIN waits, those left are never
fewer than either lane's steps. -/
theorem heldJoinIsAccepted : Obligations.HeldJoinIsAccepted := by
  intro s before after hinv hrun hjoin hturns hreset h0 h1
  exact join_accepted_of_waits after before s ⟨hinv, hrun, hjoin, hturns, hreset, fun
    | .lane0 => h0
    | .lane1 => h1⟩

end Sys2Proof.Machine
end

section
/-! Errors by command (60_exceptions.md R213 to R223): the mode that each command asks for, which
commands raise STATE past that test, and how many causes one step can raise. -/

namespace Sys2Proof.Machine

/-! ### Error bits under the updates -/

@[simp] theorem State.err_accept (s : State) (p : PortId) (c : Cause) :
    (s.accept p).err c = s.err c := State.flag_accept s p c.bit

@[simp] theorem State.err_passTurn (s : State) (c : Cause) : s.passTurn.err c = s.err c :=
  State.flag_passTurn s c.bit

/-- The error bits stand at 8 and above (10_state.md R31). -/
theorem Cause.bit_ne_of_lt (c : Cause) {n : Nat} (hn : n < 8) : c.bit ≠ n := by
  unfold Cause.bit; omega

theorem busyBit_lt_eight (h : LaneId) : busyBit h < 8 := by cases h <;> decide

theorem err_setFlag_of_lt (s : State) {n : Nat} (hn : n < 8) (b : Bool) (c : Cause) :
    (s.setFlag n b).err c = s.err c := State.flag_setFlag_other s b (c.bit_ne_of_lt hn)

theorem err_started (s : State) (h : LaneId) (r : LaneRegs) (b : Bool) (c : Cause) :
    ((s.setLane h r).setFlag (busyBit h) b).err c = s.err c :=
  (err_setFlag_of_lt _ (busyBit_lt_eight h) b c).trans (State.flag_setLane s h r c.bit)

theorem err_swapped (s : State) (c : Cause) : s.swapped.err c = s.err c :=
  flag_swapped_other s (c.bit_ne_of_lt (by decide)) (c.bit_ne_of_lt (by decide))

theorem err_plot {s t : State} {row : Nat} {x : BitVec 10} {colour : Colour}
    (h : s.plot row x colour = .ok t) (c : Cause) : t.err c = s.err c := by
  obtain ⟨m, rfl, -, -⟩ := plot_eq_setMem h
  exact State.flag_setMem s m c.bit

/-! ### The mode test (30_encoding.md R97, test 3) -/

/-- The mode that a command's mode test asks for, if it makes one. -/
def modeAsked : Instr → Option Mode
  | .nop | .stat | .sline _ | .vsync => none
  | .cfgw _ _ | .lutw _ _ | .capw _ _ | .lock => some .cfg
  | .clear | .plot _ _ _ | .gen _ _ | .join | .swap => some .run

/-- The table of R223 as two tests: the command's port, then its mode. -/
theorem permission_eq (i : Instr) (p : PortId) (m : Mode) : permission i p m =
    if i.port ≠ p then .ill else if ∀ n ∈ modeAsked i, m = n then .ok else .state := by
  match p, m with
  | .h, .cfg | .h, .run | .s, .cfg | .s, .run => cases i <;> rfl

/-- The commands with a mode test are the host's (60_exceptions.md R223). -/
theorem port_of_modeAsked {i : Instr} {m : Mode} (h : modeAsked i = some m) : i.port = .h := by
  cases i with
  | sline | vsync => cases h
  | _ => rfl

/-- The mode test is the first thing that a well-formed command's meaning does. -/
theorem exec_eq_inMode {i : Instr} {m : Mode} (hwf : i.wellFormed = true) (h : modeAsked i = some m)
    (s : State) : ∃ effect, exec i s = s.inMode m effect := by
  cases i with
  | nop | stat | sline | vsync => cases h
  | cfgw reg value => cases h; exact ⟨_, exec_cfgw_of_le value s (of_decide_eq_true hwf)⟩
  | _ => cases h; exact ⟨_, rfl⟩

theorem raises_state_of_other_mode {i : Instr} {m : Mode} {s : State} (hwf : i.wellFormed = true)
    (h : modeAsked i = some m) (hne : s.mode ≠ m) : Raises i s .state := by
  obtain ⟨effect, hexec⟩ := exec_eq_inMode hwf h s
  exact raises_of_exec_eq_reject (by rw [hexec, inMode_other effect hne, port_of_modeAsked h])

/-! ### CLEAR, GEN and PLOT past the mode test -/

theorem exec_clear_of_busy {s : State} (hrun : s.mode = .run) (hbusy : s.anyBusy = true) :
    exec .clear s = s.reject .state .h := (inMode_same _ hrun).trans (if_pos hbusy)

theorem exec_gen_of_busy {s : State} {h : LaneId} (time : F32) (hrun : s.mode = .run)
    (hbusy : s.busy h = true) : exec (.gen h time) s = s.reject .state .h :=
  (inMode_same _ hrun).trans (if_pos hbusy)

theorem exec_plot_of_outside {s : State} {row x : BitVec 10} (c : Colour) (hrun : s.mode = .run)
    (hout : s.cfg.pixelSize.toNat ≤ row.toNat ∨ s.cfg.pixelSize.toNat ≤ x.toNat) :
    exec (.plot row x c) s = s.reject .range .h := (inMode_same _ hrun).trans (if_pos hout)

/-- Settles O24: the mode test comes first, and each of the three other refusals is the next test. -/
theorem runCommandRefusals : Obligations.RunCommandRefusals := by
  refine fun s row x c h time => ⟨fun hcfg => ?_, fun hrun hbusy => ?_, fun hrun hbusy => ?_,
    fun hrun hout => ?_⟩
  · have refused {i : Instr} (hwf : i.wellFormed = true) (hi : modeAsked i = some .run) :
        Raises i s .state := raises_state_of_other_mode hwf hi (by simp [hcfg])
    exact ⟨refused rfl rfl, refused rfl rfl, refused rfl rfl, refused rfl rfl, refused rfl rfl⟩
  · exact raises_of_exec_eq_reject (exec_clear_of_busy hrun hbusy)
  · exact raises_of_exec_eq_reject (exec_gen_of_busy time hrun hbusy)
  · exact raises_of_exec_eq_reject (exec_plot_of_outside c hrun hout)

/-! ### One cause at a time (60_exceptions.md R216) -/

/-- Between `s` and `t` at most one error bit has changed. -/
def AtMostOneErr (s t : State) : Prop := ∃ c, ∀ d, d ≠ c → t.err d = s.err d

theorem AtMostOneErr.of_eq {s t : State} (h : ∀ d, t.err d = s.err d) : AtMostOneErr s t :=
  ⟨.ill, fun d _ => h d⟩

theorem atMostOneErr_raise (s : State) (c : Cause) : AtMostOneErr s (s.raise c) :=
  ⟨c, fun d hd => by simp [hd]⟩

theorem Effect.atMostOneErr {s t : State} (h : Effect s t) : AtMostOneErr s t := by
  cases h with
  | raised c => exact atMostOneErr_raise s c
  | refusedRow => exact atMostOneErr_raise (s.respondS [0]) .range
  | locked => exact .of_eq (err_setFlag_of_lt s (by decide) true)
  | notified => exact .of_eq (err_setFlag_of_lt s (by decide) true)
  | started g time => exact .of_eq (err_started s g _ _)
  | swapped => exact .of_eq (err_swapped s)
  | plotted _ hplot => exact .of_eq (err_plot hplot)
  | _ => exact .of_eq (State.err_congr rfl)

theorem portStep_atMostOneErr {p : PortId} {s t : State} (h : portStep p s = .next t) :
    AtMostOneErr s t := by
  obtain rfl | ⟨u, hu, rfl⟩ := portStep_effect h
  · exact .of_eq fun _ => rfl
  · obtain ⟨c, hc⟩ := hu.atMostOneErr
    exact ⟨c, fun d hd => (State.err_accept u p d).trans (hc d hd)⟩

/-- A lane raises NUM and RANGE only (41_mapper.md R143, R147). -/
theorem laneStep_err {h : LaneId} {s t : State} (ht : laneStep h s = .next t) {c : Cause}
    (hnum : c ≠ .num) (hrange : c ≠ .range) : t.err c = s.err c := by
  cases laneStep_turn ht with
  | idle => rfl
  | iteration p =>
    exact flag_sampled_other s h p (mt Cause.bit_inj.mp hnum) (mt Cause.bit_inj.mp hrange)
  | curveEnd => exact flag_curveEnded_other s h (c.bit_ne_of_lt (busyBit_lt_eight h))

/-- Settles O52: a port's turn has at most one effect, and no effect raises twice. -/
theorem oneCausePerCommand : Obligations.OneCausePerCommand := by
  intro s t ht
  rw [step] at ht
  refine ⟨fun p hturn => ?_, fun h hturn => ?_⟩
  · rw [hturn, runTurn_turn] at ht
    obtain ⟨c, hc⟩ := portStep_atMostOneErr ht
    exact ⟨c, fun d hd => (hc d hd).trans (State.err_passTurn s d)⟩
  · rw [hturn] at ht
    exact ⟨(laneStep_err ht (by decide) (by decide)).trans (State.err_passTurn s .ill),
      (laneStep_err ht (by decide) (by decide)).trans (State.err_passTurn s .state)⟩

/-! ### The permission table (60_exceptions.md R223) -/

/-- A word decodes on the port of the command it stands for (30_encoding.md R94). -/
theorem decodeOn_port_of_decodeWord {w : Word} {i : Instr} (h : decodeWord w = .ok i) :
    decodeOn i.port w = .ok i := by
  cases hrow : rowOf (opOf w) with
  | none => simp [decodeWord, hrow] at h
  | some r =>
    have hon : decodeOn r.port w = .ok i := by simpa [decodeOn, decodeWord, hrow] using h
    rwa [port_of_decodeOn hon]

/-- No word is legal on both ports (30_encoding.md R94). -/
theorem port_eq_of_decodeOn {p q : PortId} {w : Word} {i j : Instr} (hi : decodeOn p w = .ok i)
    (hj : decodeOn q w = .ok j) : p = q := by
  obtain ⟨r, hr, rfl, -⟩ := decodeOn_eq_ok hi
  obtain ⟨r', hr', rfl, -⟩ := decodeOn_eq_ok hj
  rw [Option.some.inj (hr.symm.trans hr')]

/-- The outcome stops, or goes on with the error bit of `c` as in `s`. -/
def KeepsErr (c : Cause) (s : State) (o : Out) : Prop := ∀ t, o = .next t → t.err c = s.err c

section Keeps

variable {c : Cause} {s u : State} {o o' : Out}

theorem keepsErr_next (hu : u.err c = s.err c) : KeepsErr c s (.next u) :=
  fun _ ht => Host.Outcome.next.inj ht ▸ hu

theorem keepsErr_accept {p : PortId} (hu : u.err c = s.err c) : KeepsErr c s (.next (u.accept p)) :=
  keepsErr_next ((State.err_accept u p c).trans hu)

theorem keepsErr_reject {d : Cause} {p : PortId} (hd : c ≠ d) (hu : u.err c = s.err c) :
    KeepsErr c s (u.reject d p) :=
  keepsErr_accept (by rw [State.err_raise, decide_eq_false hd, Bool.false_or, hu])

theorem keepsErr_ite {P : Prop} [Decidable P] (ho : KeepsErr c s o) (ho' : KeepsErr c s o') :
    KeepsErr c s (if P then o else o') := by
  split
  · exact ho
  · exact ho'

theorem keepsErr_orFault {α : Type} {r : Except Fault α} {k : α → Out}
    (h : ∀ a, r = .ok a → KeepsErr c s (k a)) : KeepsErr c s (orFault r k) := fun t ht => by
  obtain ⟨a, ha, hk⟩ := orFault_next ht
  exact h a ha t hk

/-- A held command changes nothing (00_scope.md R11). -/
theorem keepsErr_holdUntil {ready : Bool} (ho : KeepsErr c s o) :
    KeepsErr c s (s.holdUntil ready o) := keepsErr_ite ho (keepsErr_next rfl)

theorem keepsErr_inMode {m : Mode} (hm : s.mode = m) (ho : KeepsErr c s o) :
    KeepsErr c s (s.inMode m o) := by rwa [inMode_same o hm]

end Keeps

/-- Past the mode test only GEN of a busy lane and CLEAR with a busy lane raise STATE: every other test
raises ILL or RANGE. -/
theorem exec_keepsErr_state {i : Instr} {s : State} (hwf : i.wellFormed = true)
    (hmode : ∀ m ∈ modeAsked i, s.mode = m) (hgen : ∀ h time, i = .gen h time → s.busy h = false)
    (hclear : i = .clear → s.anyBusy = false) : KeepsErr .state s (exec i s) := by
  have outside {u : State} {p : PortId} (hu : u.err .state = s.err .state) :
      KeepsErr .state s (u.reject .range p) := keepsErr_reject (by decide) hu
  cases i with
  | nop => exact keepsErr_accept rfl
  | cfgw reg value =>
    rw [exec_cfgw_of_le value s (of_decide_eq_true hwf)]
    exact keepsErr_inMode (hmode _ rfl) (keepsErr_ite (keepsErr_accept rfl) (outside rfl))
  | lutw idx value =>
    refine keepsErr_inMode (hmode _ rfl) (keepsErr_ite (outside rfl) (keepsErr_orFault fun u hu => ?_))
    obtain ⟨-, rfl⟩ := writeLut_eq_ok hu
    exact keepsErr_accept rfl
  | capw row cap =>
    refine keepsErr_inMode (hmode _ rfl) (keepsErr_ite (outside rfl) (keepsErr_orFault fun u hu => ?_))
    obtain ⟨-, rfl⟩ := writeCap_eq_ok hu
    exact keepsErr_accept rfl
  | lock =>
    exact keepsErr_inMode (hmode _ rfl) (keepsErr_accept (err_setFlag_of_lt s (by decide) true _))
  | stat => exact keepsErr_accept rfl
  | clear =>
    rw [exec_clear_of_idle (hmode _ rfl) (hclear rfl)]
    exact keepsErr_accept rfl
  | plot row x colour =>
    exact keepsErr_inMode (hmode _ rfl) (keepsErr_ite (outside rfl)
      (keepsErr_orFault fun u hu => keepsErr_accept (err_plot hu _)))
  | gen h time =>
    rw [exec_gen_of_idle time (hmode _ rfl) (hgen h time rfl)]
    exact keepsErr_accept (err_started s h _ _ _)
  | join => exact keepsErr_inMode (hmode _ rfl) (keepsErr_holdUntil (keepsErr_accept rfl))
  | swap =>
    exact keepsErr_inMode (hmode _ rfl) (keepsErr_holdUntil (keepsErr_accept (err_swapped s _)))
  | sline row =>
    exact keepsErr_ite (outside rfl)
      (keepsErr_orFault fun _ _ => keepsErr_orFault fun _ _ => keepsErr_accept rfl)
  | vsync => exact keepsErr_accept (err_setFlag_of_lt s (by decide) true _)

/-- Settles O9: the table's entry follows the port, then the mode test; past both, the one STATE left is
that of a busy lane. -/
theorem permissionTableHolds : Obligations.PermissionTableHolds := by
  intro s p w i hturn hw hdec
  have hon := decodeOn_port_of_decodeWord hdec
  obtain ⟨-, -, -, -, -, hwf⟩ := decodeOn_eq_ok hon
  rw [permission_eq]
  by_cases hport : i.port = p
  · subst hport
    obtain ⟨hstep, -⟩ := stepRunsTheDecodedCommand s i.port w i hturn hw hon
    rw [if_neg (not_not_intro rfl)]
    by_cases hmode : ∀ m ∈ modeAsked i, s.mode = m
    · rw [if_pos hmode]
      refine ⟨hstep, fun t ht herr => or_iff_not_imp_right.mpr fun hidle => ?_⟩
      obtain ⟨hgen, hclear⟩ := not_or.mp hidle
      have hkept : KeepsErr .state s.passTurn (exec i s.passTurn) :=
        exec_keepsErr_state hwf (by rwa [State.mode_passTurn])
          (fun h time hi => by
            rw [State.busy_passTurn]
            exact Bool.eq_false_iff.mpr fun hbusy => hgen ⟨h, time, hi, hbusy⟩)
          (fun hi => by
            rw [State.anyBusy_passTurn]
            exact Bool.eq_false_iff.mpr fun hbusy => hclear ⟨hi, hbusy⟩)
      rwa [hkept t (hstep.symm.trans ht), State.err_passTurn] at herr
    · rw [if_neg hmode, hstep]
      obtain ⟨m, hasked, hne⟩ : ∃ m, modeAsked i = some m ∧ s.mode ≠ m := by simpa using hmode
      exact raises_state_of_other_mode hwf hasked (by rwa [State.mode_passTurn])
  · rw [if_pos hport]
    have hnone (j : Instr) : decodeOn p w ≠ .ok j := fun hj => hport (port_eq_of_decodeOn hon hj)
    refine ⟨_, ?_, raisesOnly_accept s.passTurn .ill p⟩
    rw [step, hturn, runTurn_turn,
      portStep_of_decodeOn_ne_ok (by rwa [presented_passTurn]) hnone, State.reject]

end Sys2Proof.Machine
end

section
/-! Weakly fair runs (92_eei_decisions.md D46; 70_reset_and_hazards.md R245): every turn the run gives a
running lane takes off one of its finitely many steps, and no other turn adds one. -/

namespace Sys2Proof.Machine

/-- `s` with its present turn placed in front of the turns that come after it, so that a rule about
placed turns speaks of a scheduled one too (log 4). -/
def State.withTurnPlaced (s : State) : State :=
  { s.passTurn with turns := s.currentTurn :: s.passTurn.turns }

theorem step_withTurnPlaced (s : State) : step s.withTurnPlaced = step s := rfl

theorem inv_withTurnPlaced {s : State} (hinv : Inv s) : Inv s.withTurnPlaced := by
  obtain ⟨hbuild, hcfg, hstatus, hwf, hspace, hrows, hempty, hidle, hlanes⟩ := inv_passTurn hinv
  exact ⟨hbuild, hcfg, hstatus, hwf, hspace, hrows, hempty, hidle, hlanes⟩

theorem busy_withTurnPlaced (s : State) (h : LaneId) : s.withTurnPlaced.busy h = s.busy h :=
  State.busy_passTurn s h

theorem stepsLeft_withTurnPlaced (s : State) (h : LaneId) :
    s.withTurnPlaced.stepsLeft h = s.stepsLeft h :=
  (stepsLeft_congr rfl (State.lane_congr rfl rfl h) rfl).trans (stepsLeft_passTurn s h)

/-- While a lane stays busy, its own turns take off one step left each, and no other turn changes them. -/
theorem stepsLeft_of_busy_step {s t : State} {h : LaneId} (hinv : Inv s) (hbusy : s.busy h = true)
    (ht : step s = .next t) (hbusy' : t.busy h = true) :
    t.stepsLeft h + (if s.currentTurn = .lane h then 1 else 0) = s.stepsLeft h := by
  have hsteps := step_stepsLeft (inv_withTurnPlaced hinv) rfl
    ((busy_withTurnPlaced s h).trans hbusy) ((step_withTurnPlaced s).trans ht)
  rw [stepsLeft_withTurnPlaced] at hsteps
  exact hsteps.resolve_left (by simp [hbusy'])

section Runs

variable {run : Nat → State} {h : LaneId} {n : Nat}

/-- The invariant holds along a run (10_state.md R49). -/
theorem inv_run (hsteps : ∀ n, step (run n) = .next (run (n + 1))) (hinv : Inv (run 0)) :
    ∀ n, Inv (run n)
  | 0 => hinv
  | n + 1 => everyStepKeepsTheInvariant _ _ (inv_run hsteps hinv n) (hsteps n)

/-- From point `n` on, the run never finds lane `h` idle. -/
def AlwaysBusy (run : Nat → State) (h : LaneId) (n : Nat) : Prop := ∀ m, n ≤ m → (run m).busy h = true

theorem AlwaysBusy.later (hbusy : AlwaysBusy run h n) {m : Nat} (hm : n ≤ m) : AlwaysBusy run h m :=
  fun k hk => hbusy k (hm.trans hk)

theorem AlwaysBusy.stepsLeft_succ (hfair : WeaklyFair run) (hinv : Inv (run 0))
    (hbusy : AlwaysBusy run h n) : (run (n + 1)).stepsLeft h +
      (if (run n).currentTurn = .lane h then 1 else 0) = (run n).stepsLeft h :=
  stepsLeft_of_busy_step (inv_run hfair.steps hinv n) (hbusy n le_rfl) (hfair.steps n)
    (hbusy (n + 1) n.le_succ)

theorem AlwaysBusy.stepsLeft_le (hfair : WeaklyFair run) (hinv : Inv (run 0))
    (hbusy : AlwaysBusy run h n) {m : Nat} (hm : n ≤ m) :
    (run m).stepsLeft h ≤ (run n).stepsLeft h := by
  induction m, hm using Nat.le_induction with
  | base => exact le_rfl
  | succ m hm ih =>
    have hsucc := (hbusy.later hm).stepsLeft_succ hfair hinv
    omega

/-- Fairness gives the lane a turn, and that turn takes off a step. -/
theorem AlwaysBusy.exists_stepsLeft_lt (hfair : WeaklyFair run) (hinv : Inv (run 0))
    (hbusy : AlwaysBusy run h n) :
    ∃ m, n ≤ m ∧ (run m).stepsLeft h < (run n).stepsLeft h := by
  obtain ⟨m, hm, hturn⟩ := hfair.lanes h n hbusy
  have hsucc := (hbusy.later hm).stepsLeft_succ hfair hinv
  rw [if_pos hturn] at hsucc
  exact ⟨m + 1, hm.trans m.le_succ, by have := hbusy.stepsLeft_le hfair hinv hm; omega⟩

/-- No lane stays busy for ever: its steps left would fall for ever. -/
theorem not_alwaysBusy (hfair : WeaklyFair run) (hinv : Inv (run 0)) (h : LaneId) (n : Nat) :
    ¬ AlwaysBusy run h n := by
  induction hk : (run n).stepsLeft h using Nat.strong_induction_on generalizing n with
  | _ k ih =>
    intro hbusy
    obtain ⟨m, hm, hlt⟩ := hbusy.exists_stepsLeft_lt hfair hinv
    exact ih _ (hk ▸ hlt) m rfl (hbusy.later hm)

end Runs

/-- Settles O60: the steps left to a lane that is never idle again would fall without end. -/
theorem fairRunsFinishRunningLanes : Obligations.FairRunsFinishRunningLanes := by
  intro run hfair hinv h n _
  simpa [AlwaysBusy] using not_alwaysBusy hfair hinv h n

end Sys2Proof.Machine
end

section
/-! The reset pin (70_reset_and_hazards.md R240): every reset value taken, and the presented words
discarded (log 7). -/

namespace Sys2Proof.Machine

theorem step_resetPin {s : State} (hturn : s.currentTurn = .resetPin) :
    step s = .next s.passTurn.applyReset := by
  rw [step, hturn]; rfl

theorem discard_of_presented {q : Port} (hq : q.words[q.cp]? ≠ none) :
    q.discard = { q with cp := q.cp + 1 } :=
  if_pos (Nat.lt_of_not_le (mt List.getElem?_eq_none hq))

theorem discard_of_not_presented {q : Port} (hq : q.words[q.cp]? = none) : q.discard = q :=
  if_neg (Nat.not_lt.mpr (List.getElem?_eq_none_iff.mp hq))

theorem port_applyReset (s : State) (p : PortId) : s.applyReset.port p = (s.port p).discard := by
  cases p <;> rfl

/-- The reset pin takes each port past the word it presents, if any, and keeps its list. -/
theorem discard_presented (s : State) (p : PortId) :
    (s.port p).discard.words = (s.port p).words ∧
    (s.presented p ≠ none → (s.port p).discard.cp = (s.port p).cp + 1) ∧
    (s.presented p = none → (s.port p).discard.cp = (s.port p).cp) := by
  refine ⟨?_, fun hw => by rw [discard_of_presented hw], fun hw => by rw [discard_of_not_presented hw]⟩
  obtain h | h := discard_cases (s.port p) <;> rw [h]

/-- Settles O45: the state after the pin is `State.reset` but for the inputs and the epoch, and its values
are those of 10_state.md R53. -/
theorem resetPinResets : Obligations.ResetPinResets := by
  intro s hturn
  obtain ⟨-, -, -, hstatus, -, -, hcap, hcnt, hrespH, hrespS⟩ := resetValues
  refine ⟨_, step_resetPin hturn, rfl, hstatus, hcap, hcnt, hrespH, hrespS,
    State.passTurn_build s, fun p => ?_⟩
  rw [port_applyReset, State.port_passTurn]
  exact discard_presented s p

end Sys2Proof.Machine
end

section
/-! The end of a run and the stuck states (70_reset_and_hazards.md R246; 93_implementation_defined.md U8):
a SWAP with no notification pending or to come is held at every turn, and where nothing else is left no
turn does anything. -/

namespace Sys2Proof.Machine

/-! ### Turns that do nothing (60_exceptions.md R228) -/

theorem portStep_of_presented_none {p : PortId} {s : State} (hp : s.presented p = none) :
    portStep p s = .next s := by
  simp only [portStep, hp]

/-- A held SWAP changes no state (43_sync_scanout.md R191). -/
theorem SwapHeld.portStep {s : State} (h : SwapHeld s) : portStep .h s = .next s := by
  obtain ⟨hrun, ⟨w, hw, hswap⟩, hwait⟩ := h
  rw [portStep_of_decodeOn hw hswap, exec_swap_of_not_ready hrun hwait]

/-- With port H waiting, nothing on port S and the lanes idle, no turn but the reset pin's does anything. -/
theorem runTurn_of_quiet {a : Turn} {s : State} (hH : portStep .h s = .next s)
    (hS : s.presented .s = none) (hidle : s.anyBusy = false) (ha : a ≠ .resetPin) :
    runTurn a s = .next s := by
  cases a with
  | host => exact hH
  | sink => exact portStep_of_presented_none hS
  | lane h => exact laneStep_of_idle ((anyBusy_eq_false_iff s).mp hidle h)
  | resetPin => exact absurd rfl ha

theorem step_of_quiet {s : State} (hH : portStep .h s.passTurn = .next s.passTurn)
    (hS : s.presented .s = none) (hidle : s.anyBusy = false) (ha : s.currentTurn ≠ .resetPin) :
    step s = .next s.passTurn :=
  runTurn_of_quiet hH (by rwa [presented_passTurn]) (by rwa [State.anyBusy_passTurn]) ha

/-! ### The notifications left -/

/-- A VSYNC presented is one left to send (70_reset_and_hazards.md R246). -/
theorem vsyncLeft_of_presents {s : State} (h : Presents s .s .vsync) : s.vsyncLeft = true := by
  obtain ⟨w, hw, hvsync⟩ := h
  have hmem : w ∈ s.portS.words.drop s.portS.cp :=
    List.mem_of_getElem? (i := 0) (by rw [List.getElem?_drop, Nat.add_zero]; exact hw)
  exact List.any_eq_true.mpr ⟨w, hmem, decide_eq_true hvsync⟩

/-- Accepting words on port S leaves no VSYNC that was not left before. -/
theorem runTurn_vsyncLeft {a : Turn} {s t : State} (ht : runTurn a s = .next t)
    (hleft : s.vsyncLeft = false) : t.vsyncLeft = false := by
  rw [State.vsyncLeft, List.any_eq_false] at hleft ⊢
  obtain hport | ⟨-, hport⟩ := runTurn_port ht .s
  · rwa [show t.portS = s.portS from hport]
  · rw [show t.portS = { s.portS with cp := s.portS.cp + 1 } from hport]
    exact fun w hw => hleft w (List.drop_subset_drop_left _ (Nat.le_succ _) hw)

/-- Everything a turn of the sink can be (43_sync_scanout.md R192, R193). -/
theorem portStep_s_cases {s t : State} (h : portStep .s s = .next t) :
    t = s ∨ t = (s.raise .ill).accept .s ∨ (∃ ws, t = (s.respondS ws).accept .s) ∨
    t = ((s.respondS [0]).raise .range).accept .s ∨
    (Presents s .s .vsync ∧ t = (s.setFlag vspBit true).accept .s) := by
  unfold portStep at h
  split at h
  · cases h; exact .inl rfl
  next w hw =>
    split at h
    · exact .inr (.inl (reject_next.mp h))
    next i hdec =>
      have hport := port_of_decodeOn hdec
      cases i with
      | sline row =>
        rcases execSline_cases h with ⟨-, ht⟩ | ⟨-, -, ht⟩
        · exact .inr (.inr (.inr (.inl ht)))
        · exact .inr (.inr (.inl ⟨_, ht⟩))
      | vsync => cases h; exact .inr (.inr (.inr (.inr ⟨⟨w, hw, hdec⟩, rfl⟩)))
      | _ => cases hport

@[simp] theorem vsp_accept (s : State) (p : PortId) : (s.accept p).vsp = s.vsp :=
  State.flag_accept s p vspBit

/-- Of the sink's commands only VSYNC sets VSP (10_state.md R34). -/
theorem portStep_s_vsp {s t : State} (h : portStep .s s = .next t) (hvsync : ¬ Presents s .s .vsync) :
    t.vsp = s.vsp := by
  obtain rfl | rfl | ⟨ws, rfl⟩ | rfl | ⟨hpresents, -⟩ := portStep_s_cases h
  · rfl
  · rw [vsp_accept, State.vsp_raise]
  · rw [vsp_accept]; rfl
  · rw [vsp_accept, State.vsp_raise]; rfl
  · exact absurd hpresents hvsync

theorem laneStep_vsp {h : LaneId} {s t : State} (ht : laneStep h s = .next t) : t.vsp = s.vsp := by
  cases laneStep_turn ht with
  | idle => rfl
  | iteration p => exact flag_sampled_other s h p (by decide) (by decide)
  | curveEnd => exact flag_curveEnded_other s h (by cases h <;> decide)

/-! ### A SWAP held for ever (43_sync_scanout.md R191) -/

section WhileHeld

variable {a : Turn} {s t : State}

theorem swapHeld_passTurn : SwapHeld s.passTurn ↔ SwapHeld s := by
  simp [SwapHeld, State.swapReady]

theorem StuckForEver.passTurn (h : StuckForEver s) : StuckForEver s.passTurn := by
  obtain ⟨hheld, hvsp, hleft⟩ := h
  exact ⟨swapHeld_passTurn.mpr hheld, (vsp_passTurn s).trans hvsp, by
    rwa [State.vsyncLeft, State.passTurn_portS]⟩

/-- While a SWAP is held, port H stays where it is. -/
theorem SwapHeld.runTurn_portH (h : SwapHeld s) (ht : runTurn a s = .next t) (ha : a ≠ .resetPin) :
    t.portH = s.portH := by
  obtain hport | ⟨rfl | hreset, -⟩ := runTurn_port ht .h
  · exact hport
  · rw [Host.Outcome.next.inj (h.portStep.symm.trans ht)]
  · exact absurd hreset ha

/-- With the SWAP held and no VSYNC left, nobody sets VSP. -/
theorem StuckForEver.runTurn_vsp (h : StuckForEver s) (ht : runTurn a s = .next t)
    (ha : a ≠ .resetPin) : t.vsp = false := by
  obtain ⟨hheld, hvsp, hleft⟩ := h
  rw [← hvsp]
  cases a with
  | host => rw [Host.Outcome.next.inj (hheld.portStep.symm.trans ht)]
  | sink => exact portStep_s_vsp ht fun hvsync => by simp [vsyncLeft_of_presents hvsync] at hleft
  | lane g => exact laneStep_vsp ht
  | resetPin => exact absurd rfl ha

theorem StuckForEver.step (h : StuckForEver s) (hreset : s.currentTurn ≠ .resetPin)
    (ht : step s = .next t) : StuckForEver t ∧ t.portH = s.portH := by
  have hpassed := h.passTurn
  have hvsp := hpassed.runTurn_vsp ht hreset
  obtain ⟨hheld, -, hleft⟩ := hpassed
  have hport : t.portH = s.portH := by rw [hheld.runTurn_portH ht hreset, State.passTurn_portH]
  obtain ⟨⟨hrun, hswap, -⟩, -, -⟩ := h
  refine ⟨⟨⟨(step_kept ht hreset).mode hrun, ?_, ?_⟩, hvsp, runTurn_vsyncLeft ht hleft⟩, hport⟩
  · rw [Presents, State.presented, show t.port .h = s.port .h from hport]; exact hswap
  · exact (swapReady_eq_false_iff t).mpr (.inr (.inr hvsp))

end WhileHeld

/-- A run with a word still presented has not ended (70_reset_and_hazards.md R246). -/
theorem not_ended_of_presents {s : State} {i : Instr} (h : Presents s .h i) : ¬ Ended s := by
  rintro ⟨hnone, -, -⟩
  obtain ⟨w, hw, -⟩ := h
  cases hnone.symm.trans hw

/-- Settles O55: a stuck state presents its held command; such a SWAP's VSYNC can only come from port S;
and where nothing else is left each agent's turn is idle. -/
theorem endedAndStuckStatesStay : Obligations.EndedAndStuckStatesStay := by
  refine ⟨?_, fun s ⟨hheld, _, hleft⟩ => .inl ⟨hheld, hleft⟩, fun s t h hreset ht => h.step hreset ht,
    fun s t hquiet hreset ht => ?_⟩
  · rintro s (⟨⟨-, hswap, -⟩, -⟩ | ⟨-, hjoin, -⟩)
    · exact not_ended_of_presents hswap
    · exact not_ended_of_presents hjoin
  · refine Host.Outcome.next.inj (ht.symm.trans ?_)
    obtain ⟨hH, hS, hidle⟩ | ⟨⟨hheld, -, -⟩, hidle, hS⟩ := hquiet
    · exact step_of_quiet (portStep_of_presented_none (by rwa [presented_passTurn])) hS hidle hreset
    · exact step_of_quiet (swapHeld_passTurn.mpr hheld).portStep hS hidle hreset

end Sys2Proof.Machine
end
